-- ==== Sys2Proof/Word.lean ====
section
/-! DEFINITION. The word types: bytes, 16- and 32-bit values, the 64-bit request header, text. -/
namespace Sys2Proof

/-- A byte is 8 bits (00_scope.md R12). -/
abbrev Byte := BitVec 8

/-- A uint16 value (00_scope.md R9). -/
abbrev Word16 := BitVec 16

/-- A uint32 value, or a float32 held as its 32-bit pattern (00_scope.md R9; 40_numeric_codec.md R108). -/
abbrev Word32 := BitVec 32

/-- The request header REQ (30_encoding.md R70). -/
abbrev Header := BitVec 64

/-- An operand length as an implementation bounds it: a number of LEN_W = 32 bits (00_scope.md R10). -/
abbrev Length := Fin (2 ^ 32)

/-- A text: the character codes in order, one byte each (10_state.md R29; 30_encoding.md R77). -/
abbrev Text := List Byte

end Sys2Proof
end

