-- ==== Sys2Proof/Config.lean ====
section
/-! DEFINITION. The fixed sizes of the unit (00_scope.md R8) and the range of its one open parameter,
MAXLEN (R10), which the model holds as State.maxLen (log 1). LATENCY and RSP_LAYOUT, the other open parameters
of 92_eei_decisions.md, have no place in the model: no rule depends on them (log 14). The spec leaves no result value open,
so no free value stands here. -/
namespace Sys2Proof.Config

/-- 00_scope.md R8. -/
def floatBytes : Nat := 4
/-- 00_scope.md R8. -/
def u16Bytes : Nat := 2
/-- 00_scope.md R8. -/
def u32Bytes : Nat := 4
/-- 00_scope.md R8: 3 x FLOAT_BYTES. -/
def vertexBytes : Nat := 12
/-- 00_scope.md R8: 4 x VERTEX_BYTES + U16_BYTES. -/
def triBytes : Nat := 50
/-- 00_scope.md R8. -/
def headerBytes : Nat := 80
/-- 00_scope.md R8. -/
def countBytes : Nat := 4
/-- 00_scope.md R8: HEADER_BYTES + COUNT_BYTES. -/
def minFileBytes : Nat := 84
/-- 00_scope.md R10: an operand length is a number of LEN_W = 32 bits. -/
def lenBits : Nat := 32

/-- The value 92_eei_decisions.md ("Open parameters, collected") lets a model take for MAXLEN: 2^32 - 1. DESIGN CHOICE
(log 1, unsafe): only State.reset uses it; every statement holds for every value of State.maxLen. -/
def defaultMaxLen : Length := ⟨4294967295, by decide⟩

/-- The least MAXLEN an implementation may have (00_scope.md R10). -/
def leastMaxLen : Nat := 84

end Sys2Proof.Config
end

