-- ==== Sys2Proof/Syntax.lean ====
section
/-! DEFINITION. The eight operations of the unit as decoded from the request header (30_encoding.md R70, R71). -/
namespace Sys2Proof

/-- One constructor per row of opcode_table.json. `srcOk` is REQ[4]. In format B, `len` is the operand length in bytes,
an unsigned number (30_encoding.md R74); in format W (F322B alone) `word` is the float32 pattern and the `srcOk` bit is
carried but ignored (R72). -/
inductive Instr where
  | b2f32 (srcOk : Bool) (len : Nat)
  | b2u16 (srcOk : Bool) (len : Nat)
  | b2u32 (srcOk : Bool) (len : Nat)
  | f322b (srcOk : Bool) (word : Word32)
  | b2asc (srcOk : Bool) (len : Nat)
  | vtx (srcOk : Bool) (len : Nat)
  | tri (srcOk : Bool) (len : Nat)
  | dec (srcOk : Bool) (len : Nat)
  deriving DecidableEq, Repr

end Sys2Proof
end

