-- ==== Sys2Proof/WellFormed.lean ====
section
/-! DEFINITION. Which operations a header can hold: the length of a format B operation is a number of LEN_W = 32 bits
(00_scope.md R10). Every 32-bit pattern is a legal word of F322B (30_encoding.md R81). -/
namespace Sys2Proof

/-- The length fits REQ[63:32]. -/
def lenFits (len : Nat) : Bool := decide (len < 2 ^ Config.lenBits)

/-- The operation can be written as a header. -/
def Instr.wellFormed : Instr → Bool
  | .b2f32 _ len => lenFits len
  | .b2u16 _ len => lenFits len
  | .b2u32 _ len => lenFits len
  | .f322b _ _ => true
  | .b2asc _ len => lenFits len
  | .vtx _ len => lenFits len
  | .tri _ len => lenFits len
  | .dec _ len => lenFits len

end Sys2Proof
end

