-- ==== Sys2Proof/Decode.lean ====
section
/-! DEFINITION. The decoder of the request header, total on all 2^64 headers and rejecting by name (30_encoding.md R70 to
R72), the encoder, and the match/mask table of opcode_table.json. -/
namespace Sys2Proof

/-- Why a header selects no operation (30_encoding.md R72). Both reasons give the same response, ERR_ILLEGAL_OP. -/
inductive DecodeReject where
  /-- REQ[31:5] is not zero. -/
  | reservedBits
  /-- `op` is 0x0 or 0x9 to 0xF. -/
  | noOperation (op : BitVec 4)
  deriving DecidableEq, Repr

/-- `op = REQ[3:0]`. -/
def fieldOp (h : Header) : BitVec 4 := h.extractLsb' 0 4
/-- `src_ok = REQ[4]`. -/
def fieldSrcOk (h : Header) : Bool := h.getLsbD 4
/-- `rsv = REQ[31:5]`. -/
def fieldRsv (h : Header) : BitVec 27 := h.extractLsb' 5 27
/-- `arg = REQ[63:32]`: `len` in format B, `word` in format W. -/
def fieldArg (h : Header) : Word32 := h.extractLsb' 32 32
/-- `arg` as the operand length, an unsigned number. -/
def fieldLen (h : Header) : Nat := (fieldArg h).toNat

/-- The operation a header selects: the reserved-bits test, then `REQ & 0xF` (30_encoding.md R71, R72). -/
def decode (h : Header) : Except DecodeReject Instr :=
  if fieldRsv h ≠ 0 then .error .reservedBits
  else
    match (fieldOp h).toNat with
    | 1 => .ok (.b2f32 (fieldSrcOk h) (fieldLen h))
    | 2 => .ok (.b2u16 (fieldSrcOk h) (fieldLen h))
    | 3 => .ok (.b2u32 (fieldSrcOk h) (fieldLen h))
    | 4 => .ok (.f322b (fieldSrcOk h) (fieldArg h))
    | 5 => .ok (.b2asc (fieldSrcOk h) (fieldLen h))
    | 6 => .ok (.vtx (fieldSrcOk h) (fieldLen h))
    | 7 => .ok (.tri (fieldSrcOk h) (fieldLen h))
    | 8 => .ok (.dec (fieldSrcOk h) (fieldLen h))
    | _ => .error (.noOperation (fieldOp h))

/-- The operation's code (30_encoding.md R71). -/
def Instr.op : Instr → BitVec 4
  | .b2f32 _ _ => 1
  | .b2u16 _ _ => 2
  | .b2u32 _ _ => 3
  | .f322b _ _ => 4
  | .b2asc _ _ => 5
  | .vtx _ _ => 6
  | .tri _ _ => 7
  | .dec _ _ => 8

/-- The operation's `src_ok` bit. -/
def Instr.srcOk : Instr → Bool
  | .b2f32 ok _ => ok
  | .b2u16 ok _ => ok
  | .b2u32 ok _ => ok
  | .f322b ok _ => ok
  | .b2asc ok _ => ok
  | .vtx ok _ => ok
  | .tri ok _ => ok
  | .dec ok _ => ok

/-- The operation's `arg`: the length in format B, the pattern in format W. -/
def Instr.arg : Instr → Word32
  | .b2f32 _ len => BitVec.ofNat 32 len
  | .b2u16 _ len => BitVec.ofNat 32 len
  | .b2u32 _ len => BitVec.ofNat 32 len
  | .f322b _ word => word
  | .b2asc _ len => BitVec.ofNat 32 len
  | .vtx _ len => BitVec.ofNat 32 len
  | .tri _ len => BitVec.ofNat 32 len
  | .dec _ len => BitVec.ofNat 32 len

/-- `REQ = (arg << 32) | (src_ok << 4) | op` (30_encoding.md R83). -/
def encode (i : Instr) : Header :=
  (i.arg.setWidth 64 <<< 32) ||| ((BitVec.ofBool i.srcOk).setWidth 64 <<< 4) ||| i.op.setWidth 64

/-- The length of the operand buffer the operation is issued with: `len` in format B; F322B has no buffer
(30_encoding.md R70). -/
def Instr.operandLen : Instr → Nat
  | .b2f32 _ len => len
  | .b2u16 _ len => len
  | .b2u32 _ len => len
  | .f322b _ _ => 0
  | .b2asc _ len => len
  | .vtx _ len => len
  | .tri _ len => len
  | .dec _ len => len

/-- A row of the operation table: the header selects it when `REQ & mask = match` (30_encoding.md R71). -/
structure OpRow where
  mnemonic : String
  pattern : Header
  mask : Header
  deriving DecidableEq, Repr

/-- The mask of every row: the `op` and `rsv` bits. -/
def opMask : Header := 0x00000000FFFFFFEF#64

/-- The operation table of opcode_table.json. -/
def opTable : List OpRow :=
  [ ⟨"B2F32", 0x0000000000000001#64, opMask⟩, ⟨"B2U16", 0x0000000000000002#64, opMask⟩,
    ⟨"B2U32", 0x0000000000000003#64, opMask⟩, ⟨"F322B", 0x0000000000000004#64, opMask⟩,
    ⟨"B2ASC", 0x0000000000000005#64, opMask⟩, ⟨"VTX", 0x0000000000000006#64, opMask⟩,
    ⟨"TRI", 0x0000000000000007#64, opMask⟩, ⟨"DEC", 0x0000000000000008#64, opMask⟩ ]

/-- A header selects a row. -/
def OpRow.selects (row : OpRow) (h : Header) : Bool := decide (h &&& row.mask = row.pattern)

/-- The operation's mnemonic (00_scope.md R19). -/
def Instr.mnemonic : Instr → String
  | .b2f32 _ _ => "B2F32"
  | .b2u16 _ _ => "B2U16"
  | .b2u32 _ _ => "B2U32"
  | .f322b _ _ => "F322B"
  | .b2asc _ _ => "B2ASC"
  | .vtx _ _ => "VTX"
  | .tri _ _ => "TRI"
  | .dec _ _ => "DEC"

/-- The host's view of the decoder: the header whose bits are `w`. Every header is 64 bits (log 18). -/
def decodeTableWord (nbits w : Nat) : Option Instr :=
  if nbits ≤ 64 then
    match decode (BitVec.ofNat 64 w) with
    | .ok i => some i
    | .error _ => none
  else none

end Sys2Proof
end

