-- ==== Sys2Proof/Machine/State.lean ====
section
/-! DEFINITION. The state of the unit, its requests and responses, and how a step can stop (10_state.md). -/
namespace Sys2Proof.Machine

/-- An operand buffer: `size` bytes at offsets 0 to `size - 1` (20_memory.md R40), kept as its size and the offsets whose
byte is not 0, rising (Memory.wf in Ops.lean). DESIGN CHOICE (log 3, safe): inside the buffer an offset not listed holds
the byte 0, so equal buffers are equal data; an offset from `size` on does not exist. -/
structure Memory where
  size : Nat
  cells : List Host.Cell
  deriving DecidableEq, Repr

/-- A request: the 64-bit header REQ and the operand buffer (10_state.md R27). -/
structure Request where
  header : Header
  data : Memory
  deriving DecidableEq, Repr

/-- Three float32 patterns (10_state.md R29). -/
structure Vertex where
  x : Word32
  y : Word32
  z : Word32
  deriving DecidableEq, Repr

/-- One normal, exactly three corner vertices (the source's vertex 1, 2, 3 are v0, v1, v2; 90_conflicts.md C14) and the
16-bit attribute (10_state.md R29). -/
structure Triangle where
  normal : Vertex
  v0 : Vertex
  v1 : Vertex
  v2 : Vertex
  attr : Word16
  deriving DecidableEq, Repr

/-- The result of DEC: 80 header characters, the derived count, the triangles in file order (10_state.md R29). -/
structure Mesh where
  header : Text
  count : Word32
  triangles : List Triangle
  deriving DecidableEq, Repr

/-- The typed result of an operation (10_state.md R28). -/
inductive Result where
  /-- B2F32: a float32 pattern. -/
  | float32 (pattern : Word32)
  /-- B2U16. -/
  | uint16 (value : Word16)
  /-- B2U32. -/
  | uint32 (value : Word32)
  /-- F322B: exactly 4 bytes. -/
  | bytes (b : List Byte)
  /-- B2ASC: `req.len` character codes. -/
  | text (t : Text)
  /-- VTX. -/
  | vertex (v : Vertex)
  /-- TRI. -/
  | triangle (t : Triangle)
  /-- DEC. -/
  | mesh (m : Mesh)
  deriving DecidableEq, Repr

/-- The six error kinds (60_exceptions.md R170). -/
inductive ErrorKind where
  | truncatedInput
  | misalignedTrailingData
  | recordLength
  | sourceFailure
  | operandLength
  | illegalOp
  deriving DecidableEq, Repr

/-- The seven status values that are produced; code 7 is not among them (30_encoding.md R73; U15). The 3-bit codes are in
Flags.lean. -/
inductive Status where
  | ok
  | error (kind : ErrorKind)
  deriving DecidableEq, Repr

/-- The status, and the result exactly when the status is OK (10_state.md R28). -/
structure Response where
  status : Status
  result : Option Result
  deriving DecidableEq, Repr

/-- How far a transaction in progress has come: the phases of 43_file_decoder.md R157 (IDLE is the absence of a
transaction). Each carries the working values of 10_state.md R26 that exist in it. -/
inductive Phase where
  /-- CHECK_LEN: the request is latched, nothing computed. -/
  | checkLen
  /-- HEADER. -/
  | readHeader
  /-- CHECK_ALIGN: the header text has been decoded. -/
  | checkAlign (header : Text)
  /-- TRIANGLE(cursor): the windows below the cursor have been decoded. -/
  | triangle (header : Text) (remLen cursor : Nat) (decoded : List Triangle)
  /-- DONE: the result is complete and not yet issued. -/
  | done (mesh : Mesh)
  /-- ERROR(kind): the error is found and not yet issued. -/
  | error (kind : ErrorKind)
  deriving DecidableEq, Repr

/-- A transaction in progress: the latched request and its phase (10_state.md R26). -/
structure Transaction where
  request : Request
  phase : Phase
  deriving DecidableEq, Repr

/-- The state of the unit and of its interface. The unit keeps nothing of its own between transactions (10_state.md R20):
`requests` are the host's, `responses` are the unit's output (log 4), `maxLen` is a constant of the implementation. -/
structure State where
  /-- MAXLEN, the largest operand length the implementation's buffer can hold: an open parameter (00_scope.md R10), the
  model's own field. No step changes it, and every statement holds for every value of it (log 1). -/
  maxLen : Length
  /-- Requests issued and not yet taken, oldest first (R27). -/
  requests : List Request
  /-- The transaction in progress; none when the unit is idle (R26, R32). -/
  txn : Option Transaction
  /-- Responses issued, oldest first (R28; 70_reset_and_hazards.md R204 b). -/
  responses : List Response
  deriving DecidableEq, Repr

/-- Why the machine stops. Every error kind of the spec is a response and no stop (60_exceptions.md R178). -/
inductive Fault where
  /-- Raised by an operation that reads outside the operand buffer: MemRead is defined only when `addr + n ≤ req.len`
  (00_scope.md R14). 20_memory.md R47 says no operation does it, and none of this model does. Safe (log 11). -/
  | readOutsideBuffer
  deriving DecidableEq, Repr

/-- What the model gives no meaning (00_scope.md R19). -/
inductive Refusal where
  /-- An instruction whose arm of `exec` has no meaning yet. Safe. -/
  | notModelled (mnemonic : String)
  /-- Raised by every format B operation whose `len` exceeds MAXLEN (00_scope.md R10; 70_reset_and_hazards.md R203 e).
  Safe. -/
  | lenAboveMax
  /-- Raised by every format B operation whose buffer is not exactly `len` bytes (70_reset_and_hazards.md R203 a, b).
  Safe. -/
  | bufferNotLen
  /-- Raised by `exec` in a state with no transaction in progress, where there is no request to answer; `step` never
  raises it. Safe (log 12). -/
  | noTransaction
  deriving DecidableEq, Repr

/-- A unit with that MAXLEN after reset: idle, no transaction in progress, no request latched, no response pending
(70_reset_and_hazards.md R200; 10_state.md R32). -/
def State.fresh (maxLen : Length) : State := { maxLen := maxLen, requests := [], txn := none, responses := [] }

/-- The state after reset, of the unit with the spec's default MAXLEN (log 1). -/
def State.reset : State := State.fresh Config.defaultMaxLen

end Sys2Proof.Machine
end

