-- ==== Sys2Proof/Machine/Flags.lean ====
section
/-! DEFINITION. The status codes. The unit has no flags and no condition codes (10_state.md R23); the one outcome
indicator is the 3-bit status of each response (30_encoding.md R73, 60_exceptions.md R170). -/
namespace Sys2Proof.Machine

/-- The code of an error kind (60_exceptions.md R170). -/
def ErrorKind.code : ErrorKind → BitVec 3
  | .truncatedInput => 1
  | .misalignedTrailingData => 2
  | .recordLength => 3
  | .sourceFailure => 4
  | .operandLength => 5
  | .illegalOp => 6

/-- The `status` field of a response: 0 is OK (30_encoding.md R73). -/
def Status.code : Status → BitVec 3
  | .ok => 0
  | .error k => k.code

/-- The name of a status (60_exceptions.md R170). -/
def Status.name : Status → String
  | .ok => "OK"
  | .error .truncatedInput => "ERR_TRUNCATED"
  | .error .misalignedTrailingData => "ERR_MISALIGNED"
  | .error .recordLength => "ERR_RECORD_LEN"
  | .error .sourceFailure => "ERR_SOURCE"
  | .error .operandLength => "ERR_OPERAND_LEN"
  | .error .illegalOp => "ERR_ILLEGAL_OP"

/-- `return v`: status OK with the result (00_scope.md R14). -/
def Response.ok (r : Result) : Response := { status := .ok, result := some r }

/-- `raise <Kind>()`: the kind's status and no result (00_scope.md R14; 60_exceptions.md R178). -/
def Response.error (k : ErrorKind) : Response := { status := .error k, result := none }

end Sys2Proof.Machine
end

