-- ==== Sys2Proof/Machine/Ops.lean ====
section
/-! DEFINITION. The shared operations: the operand buffer, latching a request, issuing a response, raising an error, the
common prologue. -/
namespace Sys2Proof.Machine

/-! ## The operand buffer (20_memory.md) -/

/-- The byte at an offset of the buffer. -/
def Memory.byte (m : Memory) (a : Nat) : Byte := (m.cells.lookup a).getD 0

/-- `MemRead(addr, n)`: the bytes `data[addr, addr + n)`, defined only inside the buffer (00_scope.md R14). It changes
nothing (20_memory.md R49), and any offset will do (R45). -/
def Memory.read (m : Memory) (addr n : Nat) : Option (List Byte) :=
  if addr + n ≤ m.size then some ((List.range n).map fun k => m.byte (addr + k)) else none

/-- Cells in canonical form: offsets rising from `low` on and below `size`, no byte 0. -/
def cellsWf (size : Nat) : Nat → List Host.Cell → Bool
  | _, [] => true
  | low, (a, b) :: rest => decide (low ≤ a) && decide (a < size) && decide (b ≠ 0) && cellsWf size (a + 1) rest

/-- The canonical form of a buffer: equal buffers are equal data (log 3). -/
def Memory.wf (m : Memory) : Bool := cellsWf m.size 0 m.cells

/-- The listed cells of a byte sequence that starts at offset `at0`. -/
def cellsFrom : Nat → List Byte → List Host.Cell
  | _, [] => []
  | at0, b :: rest => if b = 0 then cellsFrom (at0 + 1) rest else (at0, b) :: cellsFrom (at0 + 1) rest

/-- The buffer that holds a byte sequence, first byte at offset 0 (00_scope.md R12). -/
def Memory.ofBytes (bytes : List Byte) : Memory := { size := bytes.length, cells := cellsFrom 0 bytes }

/-- The buffer of `n` bytes 0. -/
def Memory.zeros (n : Nat) : Memory := { size := n, cells := [] }

/-- The byte sequence a buffer holds. -/
def Memory.toBytes (m : Memory) : List Byte := (List.range m.size).map m.byte

/-! ## Transactions -/

/-- A transaction begins with its request latched and nothing computed (10_state.md R26). -/
def Transaction.start (r : Request) : Transaction := { request := r, phase := .checkLen }

/-- Latch request `r`, the first of the waiting ones; `rest` wait on. -/
def State.latch (s : State) (r : Request) (rest : List Request) : State :=
  { s with requests := rest, txn := some (Transaction.start r) }

/-- Issue the response of the transaction in progress: it is the newest response, and the transaction with all its
working values is discarded (10_state.md R26, R28; 70_reset_and_hazards.md R204 a, b). -/
def State.respond (s : State) (r : Response) : State :=
  { s with txn := none, responses := s.responses ++ [r] }

/-- TAKING AN ERROR: the transaction ends with the kind's status and no result. Nothing is saved, no mode or mask changes,
control goes nowhere (60_exceptions.md R178, R179). There is no handler, so there is no return from one (R180). -/
def State.raise (s : State) (k : ErrorKind) : State := s.respond (Response.error k)

/-! ## The common prologue (40_numeric_codec.md R100) -/

/-- What the prologue of a format B operation decides. -/
inductive Prologue where
  | raise (k : ErrorKind)
  | refuse (r : Refusal)
  | proceed
  deriving DecidableEq, Repr

/-- The prologue of a format B operation whose header is legal: SourceFailure when `src_ok = 0`, whatever `len` and the
buffer are (60_exceptions.md R174, U12; log 2); then the host's duties on `len` and the buffer (70_reset_and_hazards.md
R203 a, b, e; log 15). -/
def prologueB (maxLen : Length) (srcOk : Bool) (len : Nat) (data : Memory) : Prologue :=
  if !srcOk then .raise .sourceFailure
  else if maxLen.val < len then .refuse .lenAboveMax
  else if data.size ≠ len then .refuse .bufferNotLen
  else .proceed

/-- Issue what an operation answers; an answer that needed a read outside the buffer is the fault. -/
def State.answer (s : State) : Option Response → Host.Outcome State Fault Refusal
  | some r => .next (s.respond r)
  | none => .fault .readOutsideBuffer

/-- A format B operation as one atomic transaction: the prologue, then `op` on the operand buffer. -/
def serveB (srcOk : Bool) (len : Nat) (op : Memory → Option Response) (s : State) :
    Host.Outcome State Fault Refusal :=
  match s.txn with
  | none => .refused .noTransaction
  | some t =>
    match prologueB s.maxLen srcOk len t.request.data with
    | .raise k => .next (s.raise k)
    | .refuse r => .refused r
    | .proceed => s.answer (op t.request.data)

/-- A format W operation as one atomic transaction: no buffer, no source, so the response alone (40_numeric_codec.md
R104). -/
def serveW (r : Response) (s : State) : Host.Outcome State Fault Refusal :=
  match s.txn with
  | none => .refused .noTransaction
  | some _ => .next (s.respond r)

end Sys2Proof.Machine
end

