-- ==== Sys2Proof/Machine/Operands.lean ====
section
/-! DEFINITION. Operand forms: big-endian assembly, and the typed windows of the operand buffer (20_memory.md R42, R51 to
R54). -/
namespace Sys2Proof.Machine

/-- Big-endian assembly: the first byte in the most significant position (00_scope.md R13). -/
def bigEndian (b : List Byte) : Nat := b.foldl (fun acc x => acc * 256 + x.toNat) 0

/-- `be16(b)` of 2 bytes (00_scope.md R13; 30_encoding.md R74). -/
def be16 (b : List Byte) : Word16 := BitVec.ofNat 16 (bigEndian b)

/-- `be32(b)` of 4 bytes (00_scope.md R13; 30_encoding.md R74). -/
def be32 (b : List Byte) : Word32 := BitVec.ofNat 32 (bigEndian b)

/-- `bytes32(w) = [w[31:24], w[23:16], w[15:8], w[7:0]]` (00_scope.md R13). -/
def bytes32 (w : Word32) : List Byte :=
  [w.extractLsb' 24 8, w.extractLsb' 16 8, w.extractLsb' 8 8, w.extractLsb' 0 8]

/-- `char_of(c)`: on codes it is the identity (40_numeric_codec.md R105). -/
def charOf (c : Byte) : Byte := c

/-- The 16-bit value at an offset. -/
def Memory.read16 (m : Memory) (o : Nat) : Option Word16 := (m.read o Config.u16Bytes).map be16

/-- The 32-bit value at an offset. -/
def Memory.read32 (m : Memory) (o : Nat) : Option Word32 := (m.read o Config.floatBytes).map be32

/-- The text of the `n` bytes at an offset, character k from byte k (20_memory.md R44). -/
def Memory.readText (m : Memory) (o n : Nat) : Option Text := (m.read o n).map (List.map charOf)

/-- `vertex_at(o)` (41_vertex_decoder.md R130). -/
def Memory.vertexAt (m : Memory) (o : Nat) : Option Vertex :=
  match m.read32 (o + 0), m.read32 (o + 4), m.read32 (o + 8) with
  | some x, some y, some z => some { x := x, y := y, z := z }
  | _, _, _ => none

/-- `triangle_at(o)` (42_triangle_decoder.md R140). -/
def Memory.triangleAt (m : Memory) (o : Nat) : Option Triangle :=
  match m.vertexAt (o + 0), m.vertexAt (o + 12), m.vertexAt (o + 24), m.vertexAt (o + 36), m.read16 (o + 48) with
  | some normal, some v0, some v1, some v2, some attr =>
    some { normal := normal, v0 := v0, v1 := v1, v2 := v2, attr := attr }
  | _, _, _, _, _ => none

/-- The offset of window `i` of a file (43_file_decoder.md R155). -/
def windowOffset (i : Nat) : Nat := Config.minFileBytes + Config.triBytes * i

/-- Windows 0 to `n - 1` of a file, decoded in order (43_file_decoder.md R150, R155). -/
def Memory.triangles (m : Memory) : Nat → Option (List Triangle)
  | 0 => some []
  | n + 1 =>
    match m.triangles n, m.triangleAt (windowOffset n) with
    | some ts, some t => some (ts ++ [t])
    | _, _ => none

end Sys2Proof.Machine
end

