-- ==== Sys2Proof/Machine/FileDecoder.lean ====
section
/-! DEFINITION. The File Decoder operation DEC as one atomic transaction (43_file_decoder.md). Its phases one by one are
in Phases.lean. -/
namespace Sys2Proof.Machine

/-- `rem_len`: the length of `remaining = buffer[84:]`, formed only after `len ≥ 84` (R154, R159). -/
def remainingLen (len : Nat) : Nat := len - Config.minFileBytes

/-- Step 4: the bytes after the prefix are whole records (R154). -/
def aligned (remLen : Nat) : Bool := decide (remLen % Config.triBytes = 0)

/-- Step 5: the derived count (R155). -/
def windowCount (remLen : Nat) : Nat := remLen / Config.triBytes

/-- The Mesh of step 6 (R156). -/
def meshOf (header : Text) (remLen : Nat) (ts : List Triangle) : Mesh :=
  { header := header, count := BitVec.ofNat 32 (windowCount remLen), triangles := ts }

/-- DEC after its prologue, the six steps in order (R150 to R156). -/
def opDec (len : Nat) (m : Memory) : Option Response :=
  if len < Config.minFileBytes then some (Response.error .truncatedInput)
  else
    match m.readText 0 Config.headerBytes with
    | none => none
    | some header =>
      if !aligned (remainingLen len) then some (Response.error .misalignedTrailingData)
      else
        (m.triangles (windowCount (remainingLen len))).map fun ts =>
          Response.ok (.mesh (meshOf header (remainingLen len) ts))

/-- DEC, `decode` (R150). -/
def execDec (srcOk : Bool) (len : Nat) (s : State) : Host.Outcome State Fault Refusal :=
  serveB srcOk len (opDec len) s

end Sys2Proof.Machine
end

