-- ==== Sys2Proof/Machine/NumericCodec.lean ====
section
/-! DEFINITION. The Numeric Codec operations: B2F32, B2U16, B2U32, F322B, B2ASC (40_numeric_codec.md). -/
namespace Sys2Proof.Machine

/-- B2F32 after its prologue: the length check, the read, the pattern unchanged (R101). -/
def opB2f32 (len : Nat) (m : Memory) : Option Response :=
  if len ≠ Config.floatBytes then some (Response.error .operandLength)
  else (m.read32 0).map fun p => Response.ok (.float32 p)

/-- B2U16 after its prologue (R102). -/
def opB2u16 (len : Nat) (m : Memory) : Option Response :=
  if len ≠ Config.u16Bytes then some (Response.error .operandLength)
  else (m.read16 0).map fun v => Response.ok (.uint16 v)

/-- B2U32 after its prologue (R103). -/
def opB2u32 (len : Nat) (m : Memory) : Option Response :=
  if len ≠ Config.u32Bytes then some (Response.error .operandLength)
  else (m.read32 0).map fun v => Response.ok (.uint32 v)

/-- B2ASC after its prologue: every length is legal (R105). -/
def opB2asc (len : Nat) (m : Memory) : Option Response :=
  (m.readText 0 len).map fun t => Response.ok (.text t)

/-- B2F32, `bytes_to_float32` (R101). -/
def execB2f32 (srcOk : Bool) (len : Nat) (s : State) : Host.Outcome State Fault Refusal :=
  serveB srcOk len (opB2f32 len) s

/-- B2U16, `bytes_to_uint16` (R102). -/
def execB2u16 (srcOk : Bool) (len : Nat) (s : State) : Host.Outcome State Fault Refusal :=
  serveB srcOk len (opB2u16 len) s

/-- B2U32, `bytes_to_uint32` (R103). -/
def execB2u32 (srcOk : Bool) (len : Nat) (s : State) : Host.Outcome State Fault Refusal :=
  serveB srcOk len (opB2u32 len) s

/-- F322B, `float32_to_bytes`: only IllegalOp could apply, and the header is legal; `src_ok` is ignored (R104). -/
def execF322b (_srcOk : Bool) (word : Word32) (s : State) : Host.Outcome State Fault Refusal :=
  serveW (Response.ok (.bytes (bytes32 word))) s

/-- B2ASC, `bytes_to_ascii` (R105). -/
def execB2asc (srcOk : Bool) (len : Nat) (s : State) : Host.Outcome State Fault Refusal :=
  serveB srcOk len (opB2asc len) s

end Sys2Proof.Machine
end

