-- ==== Sys2Proof/Machine/TriangleDecoder.lean ====
section
/-! DEFINITION. The Triangle Decoder operation TRI (42_triangle_decoder.md). -/
namespace Sys2Proof.Machine

/-- TRI after its prologue: the length check, then `triangle_at(0)` (R140). -/
def opTri (len : Nat) (m : Memory) : Option Response :=
  if len ≠ Config.triBytes then some (Response.error .recordLength)
  else (m.triangleAt 0).map fun t => Response.ok (.triangle t)

/-- TRI, `triangle_from_bytes` (R140). -/
def execTri (srcOk : Bool) (len : Nat) (s : State) : Host.Outcome State Fault Refusal :=
  serveB srcOk len (opTri len) s

end Sys2Proof.Machine
end

