-- ==== Sys2Proof/Machine/VertexDecoder.lean ====
section
/-! DEFINITION. The Vertex Decoder operation VTX (41_vertex_decoder.md). -/
namespace Sys2Proof.Machine

/-- VTX after its prologue: the length check, then `vertex_at(0)` (R130). -/
def opVtx (len : Nat) (m : Memory) : Option Response :=
  if len ≠ Config.vertexBytes then some (Response.error .operandLength)
  else (m.vertexAt 0).map fun v => Response.ok (.vertex v)

/-- VTX, `vertex_from_bytes` (R130). -/
def execVtx (srcOk : Bool) (len : Nat) (s : State) : Host.Outcome State Fault Refusal :=
  serveB srcOk len (opVtx len) s

end Sys2Proof.Machine
end

