-- ==== Sys2Proof/Machine/Dispatch.lean ====
section
/-! DEFINITION. One arm per operation. -/
namespace Sys2Proof.Machine

def exec (i : Instr) (s : State) : Host.Outcome State Fault Refusal :=
  match i with
  | .b2f32 srcOk len => Sys2Proof.Machine.execB2f32 srcOk len s
  | .b2u16 srcOk len => Sys2Proof.Machine.execB2u16 srcOk len s
  | .b2u32 srcOk len => Sys2Proof.Machine.execB2u32 srcOk len s
  | .f322b srcOk word => Sys2Proof.Machine.execF322b srcOk word s
  | .b2asc srcOk len => Sys2Proof.Machine.execB2asc srcOk len s
  | .vtx srcOk len => Sys2Proof.Machine.execVtx srcOk len s
  | .tri srcOk len => Sys2Proof.Machine.execTri srcOk len s
  | .dec srcOk len => Sys2Proof.Machine.execDec srcOk len s

end Sys2Proof.Machine
end

