-- ==== Sys2Proof/Machine/Fetch.lean ====
section
/-! DEFINITION. How the unit comes by its next operation. There is no program counter and no fetch from memory
(10_state.md R22; 20_memory.md R58): the operation is in the header of the request at hand. -/
namespace Sys2Proof.Machine

/-- The request to serve and the state that has it latched: the transaction in progress, else the oldest waiting request;
none when the unit is idle and nothing waits (log 5, log 9). -/
def fetch (s : State) : Option (Request × State) :=
  match s.txn with
  | some t => some (t.request, s)
  | none =>
    match s.requests with
    | [] => none
    | r :: rest => some (r, s.latch r rest)

/-- A header that selects no operation: the transaction ends with IllegalOp, tested before anything else
(60_exceptions.md R176). -/
def takeIllegal (s : State) : Host.Outcome State Fault Refusal := .next (s.raise .illegalOp)

/-- The request the host would issue for the table word `w`: that header, and the buffer of as many bytes 0 as its
operation is issued with (log 7). -/
def tableRequest (w : Nat) : Request :=
  let h : Header := BitVec.ofNat 64 w
  match decode h with
  | .ok i => { header := h, data := Memory.zeros i.operandLen }
  | .error _ => { header := h, data := Memory.zeros 0 }

/-- Place a request so that it is the next one served. -/
def State.placeNext (s : State) (r : Request) : State := { s with txn := none, requests := r :: s.requests }

end Sys2Proof.Machine
end

