-- ==== Sys2Proof/Machine/Step.lean ====
section
/-! DEFINITION. One step: one transaction, atomic and serial (70_reset_and_hazards.md R205; 92_eei_decisions.md D1). -/
namespace Sys2Proof.Machine

/-- Serve one request to its response. An idle unit with no request stays as it is (log 5). -/
def step (s : State) : Host.Outcome State Fault Refusal :=
  match fetch s with
  | none => .next s
  | some (r, s1) =>
    match decode r.header with
    | .ok i => exec i s1
    | .error _ => takeIllegal s1

/-- The state with the table word `w` as the next request to serve (log 7). -/
def State.withFetchWord (s : State) (_nbits w : Nat) : State := s.placeNext (tableRequest w)

end Sys2Proof.Machine
end

