-- ==== Sys2Proof/Machine/Float32.lean ====
section
/-! DEFINITION. How to READ a float32 pattern (30_encoding.md R75). PRESUMED (log 17): the IEEE-754 single-precision layout
is from general knowledge, as the rule itself says. No operation of the unit uses anything of this file: the unit
moves the 32 bits unchanged (40_numeric_codec.md R108). It serves statements and tests about the spec's examples. -/
namespace Sys2Proof.Machine

/-- `p[31]`. -/
def f32Sign (p : Word32) : Bool := p.getLsbD 31
/-- `p[30:23]`, bias 127. -/
def f32Exponent (p : Word32) : BitVec 8 := p.extractLsb' 23 8
/-- `p[22:0]`. -/
def f32Fraction (p : Word32) : BitVec 23 := p.extractLsb' 0 23

/-- The classes of patterns. -/
inductive F32Class where
  | zero
  | subnormal
  | normal
  | infinity
  | quietNaN
  | signallingNaN
  deriving DecidableEq, Repr

/-- The class of a pattern. -/
def f32Class (p : Word32) : F32Class :=
  if f32Exponent p = 0 then (if f32Fraction p = 0 then .zero else .subnormal)
  else if f32Exponent p = 255 then
    (if f32Fraction p = 0 then .infinity
     else if (f32Fraction p).getLsbD 22 then .quietNaN else .signallingNaN)
  else .normal

/-- The magnitude of a zero, subnormal or normal pattern in units of 2^-149, an exact number: `f` for exponent 0, else
`(2^23 + f) × 2^(e - 1)`. -/
def f32MagnitudeUlps (p : Word32) : Nat :=
  if f32Exponent p = 0 then (f32Fraction p).toNat
  else (2 ^ 23 + (f32Fraction p).toNat) * 2 ^ ((f32Exponent p).toNat - 1)

/-- The value of a zero, subnormal or normal pattern in units of 2^-149; none for infinities and NaNs. -/
def f32ValueUlps (p : Word32) : Option Int :=
  if f32Exponent p = 255 then none
  else if f32Sign p then some (-(f32MagnitudeUlps p : Int)) else some (f32MagnitudeUlps p : Int)

end Sys2Proof.Machine
end

