-- ==== Sys2Proof/Machine/HostActions.lean ====
section
/-! DEFINITION. What the host can do to the unit: issue a request, take responses, reset; and the line syntax of the
spec's test programs (70_reset_and_hazards.md; 30_encoding.md R83). -/
namespace Sys2Proof.Machine

/-- Issue a request: it waits behind the earlier ones (R204 b). -/
def State.issue (s : State) (r : Request) : State := { s with requests := s.requests ++ [r] }

/-- Take the oldest response, if there is one. -/
def State.takeResponse (s : State) : Option (Response × State) :=
  match s.responses with
  | [] => none
  | r :: rest => some (r, { s with responses := rest })

/-- Reset at any time: the unit is idle, nothing latched, nothing pending, its MAXLEN unchanged; a transaction in progress
is abandoned and gets no response (R200, R201; log 6). -/
def State.hostReset (s : State) : State := State.fresh s.maxLen

/-- The line `MNEMONIC byte, byte, ...` (`srcOk = true`) or `MNEMONIC.F byte, ...` (`false`): the bytes are the buffer and
`len` their number (30_encoding.md R83). `op` is the constructor of the mnemonic. -/
def lineB (op : Bool → Nat → Instr) (srcOk : Bool) (bytes : List Byte) : Request :=
  { header := encode (op srcOk bytes.length), data := Memory.ofBytes bytes }

/-- The line `F322B 0xWWWWWWWW`: written with `src_ok = 0`, no buffer (30_encoding.md R83). -/
def lineW (word : Word32) : Request := { header := encode (.f322b false word), data := Memory.zeros 0 }

/-- A request given by its raw header, with an empty buffer. -/
def rawHeader (h : Header) : Request := { header := h, data := Memory.zeros 0 }

end Sys2Proof.Machine
end

