-- ==== Sys2Proof/Machine/Phases.lean ====
section
/-! DEFINITION. The unit phase by phase: the permitted refinement of 43_file_decoder.md R157, over the same State. `tick` is
one phase of a DEC transaction where `step` is the whole of it; every other operation is one tick. The working values of
10_state.md R26 live in the state between ticks. -/
namespace Sys2Proof.Machine

/-- Put the transaction in progress into another phase; its latched request stays. -/
def State.toPhase (s : State) (t : Transaction) (p : Phase) : State := { s with txn := some { t with phase := p } }

/-- TRIANGLE(i) while a window is left, else DONE. -/
def nextWindow (header : Text) (remLen i : Nat) (decoded : List Triangle) : Phase :=
  if i < windowCount remLen then .triangle header remLen i decoded else .done (meshOf header remLen decoded)

/-- The first phase of a DEC transaction that has left IDLE: what the prologue decides (40_numeric_codec.md R100). -/
def enterDec (srcOk : Bool) (len : Nat) (r : Request) (s : State) : Host.Outcome State Fault Refusal :=
  match prologueB s.maxLen srcOk len r.data with
  | .raise k => .next (s.toPhase (Transaction.start r) (.error k))
  | .refuse x => .refused x
  | .proceed => .next s

/-- Leave IDLE with request `r` latched in `s`. -/
def enter (r : Request) (s : State) : Host.Outcome State Fault Refusal :=
  match decode r.header with
  | .error _ => .next (s.toPhase (Transaction.start r) (.error .illegalOp))
  | .ok (.dec srcOk len) => enterDec srcOk len r s
  | .ok i => exec i s

/-- One phase of a transaction in progress; DONE and ERROR issue the response. -/
def advance (t : Transaction) (s : State) : Host.Outcome State Fault Refusal :=
  match t.phase with
  | .checkLen =>
    if fieldLen t.request.header < Config.minFileBytes then .next (s.toPhase t (.error .truncatedInput))
    else .next (s.toPhase t .readHeader)
  | .readHeader =>
    match t.request.data.readText 0 Config.headerBytes with
    | none => .fault .readOutsideBuffer
    | some header => .next (s.toPhase t (.checkAlign header))
  | .checkAlign header =>
    if !aligned (remainingLen (fieldLen t.request.header)) then
      .next (s.toPhase t (.error .misalignedTrailingData))
    else .next (s.toPhase t (nextWindow header (remainingLen (fieldLen t.request.header)) 0 []))
  | .triangle header remLen i decoded =>
    match t.request.data.triangleAt (windowOffset i) with
    | none => .fault .readOutsideBuffer
    | some tri => .next (s.toPhase t (nextWindow header remLen (i + 1) (decoded ++ [tri])))
  | .done mesh => .next (s.respond (Response.ok (.mesh mesh)))
  | .error k => .next (s.raise k)

/-- One tick of the unit. -/
def tick (s : State) : Host.Outcome State Fault Refusal :=
  match s.txn with
  | some t => advance t s
  | none =>
    match s.requests with
    | [] => .next s
    | r :: rest => enter r (s.latch r rest)

/-- `n` ticks, stopping at the first fault or refusal. -/
def ticks : Nat → State → Host.Outcome State Fault Refusal
  | 0, s => .next s
  | n + 1, s =>
    match tick s with
    | .next s' => ticks n s'
    | .fault f => .fault f
    | .refused r => .refused r

/-- The order of the phases (43_file_decoder.md R157): a transaction moves to a phase of greater rank, or from a window to
a later window. -/
def Phase.rank : Phase → Nat
  | .checkLen => 0
  | .readHeader => 1
  | .checkAlign _ => 2
  | .triangle _ _ i _ => 3 + i
  | .done m => 3 + m.count.toNat
  | .error _ => 3

end Sys2Proof.Machine
end

