-- ==== Sys2Proof/Safety.lean ====
section
/-! DEFINITION. What a legal state is, which requests are accepted, what the answer to a request is, and the layout of a
buffer seen as values: the terms the claims use. -/
namespace Sys2Proof.Machine

/-! ## The layout of a buffer, by address (20_memory.md R42, R51 to R54) -/

/-- The 16-bit value of the bytes at `o` and `o + 1`, the lower offset more significant. -/
def Memory.halfView (m : Memory) (o : Nat) : Word16 := m.byte o ++ m.byte (o + 1)

/-- The 32-bit value of the bytes at `o` to `o + 3`, the lowest offset most significant. -/
def Memory.wordView (m : Memory) (o : Nat) : Word32 :=
  m.byte o ++ m.byte (o + 1) ++ m.byte (o + 2) ++ m.byte (o + 3)

/-- The vertex at `o`: component c at `o + 4c` (R53). -/
def Memory.vertexView (m : Memory) (o : Nat) : Vertex :=
  { x := m.wordView o, y := m.wordView (o + 4), z := m.wordView (o + 8) }

/-- The triangle at `o`: vertex slot j at `o + 12j`, the attribute at `o + 48` (R52, R54). -/
def Memory.triangleView (m : Memory) (o : Nat) : Triangle :=
  { normal := m.vertexView o, v0 := m.vertexView (o + 12), v1 := m.vertexView (o + 24),
    v2 := m.vertexView (o + 36), attr := m.halfView (o + 48) }

/-- Vertex slot j of a triangle: 0 the normal, 1 to 3 the corners (R54). -/
def Triangle.slot (t : Triangle) : Nat → Option Vertex
  | 0 => some t.normal
  | 1 => some t.v0
  | 2 => some t.v1
  | 3 => some t.v2
  | _ => none

/-- Component c of a vertex: 0 = x, 1 = y, 2 = z (R54). -/
def Vertex.component (v : Vertex) : Nat → Option Word32
  | 0 => some v.x
  | 1 => some v.y
  | 2 => some v.z
  | _ => none

/-- The two buffers hold the same bytes except, it may be, at the declared-count offsets 80 to 83 (R60). -/
def sameButDeclaredCount (m m' : Memory) : Prop :=
  m.size = m'.size ∧ ∀ a, a < 80 ∨ 84 ≤ a → m.byte a = m'.byte a

/-! ## Requests and answers -/

/-- The host has kept its duties for this request (70_reset_and_hazards.md R203): a format B request whose source
delivered has `len ≤ MAXLEN` and a buffer of exactly `len` bytes. A header that selects no operation, F322B, and a request
with `src_ok = 0` are answered whatever `len` and the buffer are (log 2, log 8). -/
def Request.accepted (maxLen : Length) (r : Request) : Bool :=
  match decode r.header with
  | .error _ => true
  | .ok (.f322b _ _) => true
  | .ok i => !i.srcOk || (decide (i.operandLen ≤ maxLen.val) && decide (r.data.size = i.operandLen))

/-- `a` is what a unit with that MAXLEN answers to `r` issued as the first request after reset. -/
def Answers (maxLen : Length) (r : Request) (a : Response) : Prop :=
  step ((State.fresh maxLen).issue r) = .next ((State.fresh maxLen).respond a)

/-- What the phases of a transaction lead to, when it is a DEC transaction or one that selects no operation: the
response its request alone determines. -/
def Request.phasedAnswer (maxLen : Length) (r : Request) : Option Response :=
  match decode r.header with
  | .error _ => some (Response.error .illegalOp)
  | .ok (.dec srcOk len) =>
    match prologueB maxLen srcOk len r.data with
    | .raise k => some (Response.error k)
    | .refuse _ => none
    | .proceed => opDec len r.data
  | .ok _ => none

/-! ## Legal states -/

/-- The shape of a result (10_state.md R28, R29): F322B gives exactly 4 bytes; a Mesh has exactly 80 header characters and
as many triangles as its count. -/
def Result.wf : Result → Bool
  | .float32 _ => true
  | .uint16 _ => true
  | .uint32 _ => true
  | .bytes b => decide (b.length = Config.floatBytes)
  | .text _ => true
  | .vertex _ => true
  | .triangle _ => true
  | .mesh m => decide (m.header.length = Config.headerBytes) && decide (m.triangles.length = m.count.toNat)

/-- A result is present, and of its shape, exactly when the status is OK (10_state.md R28). -/
def Response.wf (r : Response) : Bool :=
  match r.status, r.result with
  | .ok, some v => v.wf
  | .ok, none => false
  | .error _, some _ => false
  | .error _, none => true

/-- A request as the host hands it over: its buffer in canonical form. -/
def Request.wf (r : Request) : Bool := r.data.wf

/-- The request is a DEC request that has passed its prologue. -/
def Request.decoding (maxLen : Length) (r : Request) : Bool :=
  match decode r.header with
  | .ok (.dec srcOk len) => decide (prologueB maxLen srcOk len r.data = .proceed)
  | _ => false

/-- The working values of a transaction are what its request gives in that phase (10_state.md R26; 43_file_decoder.md R151
to R157). -/
def Phase.wf (maxLen : Length) (r : Request) : Phase → Bool
  | .checkLen => r.decoding maxLen
  | .readHeader => r.decoding maxLen && decide (Config.minFileBytes ≤ fieldLen r.header)
  | .checkAlign h =>
    r.decoding maxLen && decide (Config.minFileBytes ≤ fieldLen r.header) &&
      decide (r.data.readText 0 Config.headerBytes = some h)
  | .triangle h remLen i ts =>
    r.decoding maxLen && decide (fieldLen r.header = Config.minFileBytes + remLen) &&
      decide (r.data.readText 0 Config.headerBytes = some h) && aligned remLen && decide (i < windowCount remLen) &&
      decide (r.data.triangles i = some ts)
  | .done m => r.decoding maxLen && decide (r.phasedAnswer maxLen = some (Response.ok (.mesh m)))
  | .error k => decide (r.phasedAnswer maxLen = some (Response.error k))

/-- A legal transaction in progress. -/
def Transaction.wf (maxLen : Length) (t : Transaction) : Bool := t.request.wf && t.phase.wf maxLen t.request

/-- No transaction, or a legal one. -/
def txnWf (maxLen : Length) : Option Transaction → Bool
  | none => true
  | some t => t.wf maxLen

/-- A legal state: a MAXLEN in its range (00_scope.md R10), canonical buffers, a legal transaction in progress if there is
one, responses of the shape the spec gives them. -/
def State.wf (s : State) : Bool :=
  decide (Config.leastMaxLen ≤ s.maxLen.val) && s.requests.all Request.wf && txnWf s.maxLen s.txn &&
    s.responses.all Response.wf

/-- The unit is idle: no transaction in progress. -/
def State.Idle (s : State) : Prop := s.txn = none

end Sys2Proof.Machine
end

