-- ==== Sys2Proof/Certificates/Slice0/Obligations.lean ====
section
/-! DEFINITION. The statements for the provers. Each is a Prop about the model; OBLIGATIONS.json says which rule of spec/ it
formalises or which sections it rests on. -/
open Sys2Proof Sys2Proof.Machine

/-! ## Reset, the idle unit, the host -/

/-- 70_reset_and_hazards.md R200: after reset, whatever MAXLEN is, the unit is idle, with no request latched and no
response pending; and the first request after reset is served exactly as any other: an idle unit, in any state, answers its
oldest request with what a unit with the same MAXLEN answers to it as the first request after reset. -/
def Obligations.ResetIsIdle : Prop :=
  (State.reset.txn = none ∧ State.reset.requests = [] ∧ State.reset.responses = []) ∧
  (∀ maxLen : Length, (State.fresh maxLen).txn = none ∧ (State.fresh maxLen).requests = [] ∧
    (State.fresh maxLen).responses = []) ∧
  ∀ (s : State) (r : Request) (rest : List Request) (a : Response), s.txn = none → s.requests = r :: rest →
    (step s = .next { maxLen := s.maxLen, requests := rest, txn := none, responses := s.responses ++ [a] } ↔
      Answers s.maxLen r a)

/-- Reset meets the invariant of StepKeepsLegalState and TickKeepsLegalState. -/
def Obligations.ResetIsLegal : Prop := State.reset.wf = true

/-- R201: reset during a transaction abandons it: whatever the state, the unit is idle as after power-on, and no response is
issued for the transaction or for any request that waited (the waiting requests and the responses not yet taken: the
model's choice, log 6). -/
def Obligations.HostResetAbandonsTransaction : Prop :=
  ∀ s : State, s.hostReset.txn = none ∧ s.hostReset.responses = [] ∧ s.hostReset.requests = [] ∧
    s.hostReset.maxLen = s.maxLen ∧ step s.hostReset = .next s.hostReset

/-- An idle unit with no request waiting stays as it is (log 5). -/
def Obligations.IdleStepChangesNothing : Prop :=
  ∀ s : State, s.txn = none → s.requests = [] → step s = .next s ∧ tick s = .next s

/-! ## The header -/

/-- 30_encoding.md R70, R71: decode of encode is the operation, with every length and every word. -/
def Obligations.DecodeOfEncode : Prop :=
  ∀ i : Instr, i.wellFormed = true → decode (encode i) = .ok i

/-- Each legal header has one meaning: encode of what it decodes to is the header, bit for bit. -/
def Obligations.EncodeOfDecode : Prop :=
  ∀ (h : Header) (i : Instr), decode h = .ok i → encode i = h ∧ i.wellFormed = true

/-- R71, R72: a header selects an operation exactly when it selects the table row of that operation's mnemonic, and no
header selects two rows. -/
def Obligations.DecodeAgreesWithTable : Prop :=
  (∀ h : Header, (∃ i, decode h = .ok i) ↔ ∃ row ∈ opTable, row.selects h = true) ∧
  (∀ (h : Header) (i : Instr) (row : OpRow), decode h = .ok i → row ∈ opTable → row.selects h = true →
    row.mnemonic = i.mnemonic) ∧
  (∀ (h : Header) (r1 r2 : OpRow), r1 ∈ opTable → r2 ∈ opTable → r1.selects h = true → r2.selects h = true → r1 = r2)

/-- R83: the header of a line as a number: `arg × 2^32 + src_ok × 2^4 + op`. -/
def Obligations.EncodeAsNumber : Prop :=
  ∀ i : Instr, (encode i).toNat = i.arg.toNat * 2 ^ 32 + i.srcOk.toNat * 2 ^ 4 + i.op.toNat

/-- Headers of 95_test_vectors.md decode to the operations they are given for; two of V9 decode to none. -/
def Obligations.SpecHeadersDecode : Prop :=
  decode 0x0000000400000011#64 = .ok (.b2f32 true 4) ∧
  decode 0x0000000200000002#64 = .ok (.b2u16 false 2) ∧
  decode 0x0000000400000013#64 = .ok (.b2u32 true 4) ∧
  decode 0x4120000000000014#64 = .ok (.f322b true 0x41200000#32) ∧
  decode 0x0000000500000015#64 = .ok (.b2asc true 5) ∧
  decode 0x0000000C00000016#64 = .ok (.vtx true 12) ∧
  decode 0x0000003200000007#64 = .ok (.tri false 50) ∧
  decode 0xFFFFFFF400000018#64 = .ok (.dec true 4294967284) ∧
  decode 0x0000000000000000#64 = .error (.noOperation 0) ∧
  decode 0x0000000480000011#64 = .error .reservedBits

/-- R72, R176: an idle unit answers a header with `rsv ≠ 0`, or with `op` 0x0 or 0x9 to 0xF, with ERR_ILLEGAL_OP and no
result, whatever `src_ok`, `arg` and the buffer are; and a header with `rsv = 0` and `op` 0x1 to 0x8 selects an operation. -/
def Obligations.IllegalHeaderIsAnswered : Prop :=
  (∀ (s : State) (r : Request) (rest : List Request), s.txn = none → s.requests = r :: rest →
    (fieldRsv r.header ≠ 0 ∨ fieldOp r.header = 0 ∨ 9 ≤ (fieldOp r.header).toNat) →
    step s = .next { maxLen := s.maxLen, requests := rest, txn := none,
                     responses := s.responses ++ [⟨.error .illegalOp, none⟩] }) ∧
  (∀ h : Header, fieldRsv h = 0 → 1 ≤ (fieldOp h).toNat → (fieldOp h).toNat ≤ 8 → ∃ i, decode h = .ok i)

/-- R73: the codes and names of the seven status values, each code once, and never 7. -/
def Obligations.StatusCodes : Prop :=
  Status.ok.code = 0 ∧ (Status.error .truncatedInput).code = 1 ∧ (Status.error .misalignedTrailingData).code = 2 ∧
  (Status.error .recordLength).code = 3 ∧ (Status.error .sourceFailure).code = 4 ∧
  (Status.error .operandLength).code = 5 ∧ (Status.error .illegalOp).code = 6 ∧
  Status.ok.name = "OK" ∧ (Status.error .truncatedInput).name = "ERR_TRUNCATED" ∧
  (Status.error .misalignedTrailingData).name = "ERR_MISALIGNED" ∧
  (Status.error .recordLength).name = "ERR_RECORD_LEN" ∧ (Status.error .sourceFailure).name = "ERR_SOURCE" ∧
  (Status.error .operandLength).name = "ERR_OPERAND_LEN" ∧ (Status.error .illegalOp).name = "ERR_ILLEGAL_OP" ∧
  (∀ a b : Status, a.code = b.code → a = b) ∧ ∀ a : Status, a.code ≠ 7

/-! ## The step -/

/-- A step of an idle unit is `exec` of the operation the oldest request's header decodes to, with that request latched
and taken off the waiting ones; a step with a transaction in progress is `exec` of that transaction's operation,
whole, whatever its phase. The second clause is the model's choice (log 9, DESIGN CHOICE): the spec's steps are whole
transactions. -/
def Obligations.StepServesDecodedRequest : Prop :=
  (∀ (s : State) (r : Request) (rest : List Request) (i : Instr), s.txn = none → s.requests = r :: rest →
    decode r.header = .ok i →
    step s = exec i { maxLen := s.maxLen, requests := rest, txn := some { request := r, phase := .checkLen },
                      responses := s.responses }) ∧
  (∀ (s : State) (t : Transaction) (i : Instr), s.txn = some t → decode t.request.header = .ok i → step s = exec i s)

/-- R178: what issuing a response and raising an error leave: the transaction is gone, the response is the newest, the
waiting requests are the same; an error's response is its status and no result, and nothing else is saved anywhere. -/
def Obligations.ResponseAndErrorEntry : Prop :=
  (∀ (s : State) (a : Response),
    s.respond a = { maxLen := s.maxLen, requests := s.requests, txn := none, responses := s.responses ++ [a] }) ∧
  (∀ (s : State) (k : ErrorKind),
    s.raise k = { maxLen := s.maxLen, requests := s.requests, txn := none,
                  responses := s.responses ++ [⟨.error k, none⟩] })

/-! ## The eight operations: encoding, result, errors -/

/-- R101. -/
def Obligations.B2f32Meaning : Prop :=
  (∀ h : Header, fieldRsv h = 0 → fieldOp h = 0x1 → decode h = .ok (.b2f32 (fieldSrcOk h) (fieldLen h))) ∧
  ∀ (s : State) (t : Transaction), s.txn = some t → 84 ≤ s.maxLen.val →
    (fieldOp t.request.header = 0x1 → fieldRsv t.request.header ≠ 0 → step s = .next (s.raise .illegalOp)) ∧
    (∀ len, len ≤ s.maxLen.val → exec (.b2f32 false len) s = .next (s.raise .sourceFailure)) ∧
    (∀ len, len ≤ s.maxLen.val → t.request.data.size = len → len ≠ 4 →
      exec (.b2f32 true len) s = .next (s.raise .operandLength)) ∧
    (t.request.data.size = 4 →
      exec (.b2f32 true 4) s = .next (s.respond (Response.ok (.float32
        (t.request.data.byte 0 ++ t.request.data.byte 1 ++ t.request.data.byte 2 ++ t.request.data.byte 3)))))

/-- R102. -/
def Obligations.B2u16Meaning : Prop :=
  (∀ h : Header, fieldRsv h = 0 → fieldOp h = 0x2 → decode h = .ok (.b2u16 (fieldSrcOk h) (fieldLen h))) ∧
  ∀ (s : State) (t : Transaction), s.txn = some t → 84 ≤ s.maxLen.val →
    (fieldOp t.request.header = 0x2 → fieldRsv t.request.header ≠ 0 → step s = .next (s.raise .illegalOp)) ∧
    (∀ len, len ≤ s.maxLen.val → exec (.b2u16 false len) s = .next (s.raise .sourceFailure)) ∧
    (∀ len, len ≤ s.maxLen.val → t.request.data.size = len → len ≠ 2 →
      exec (.b2u16 true len) s = .next (s.raise .operandLength)) ∧
    (t.request.data.size = 2 → ∃ v : Word16,
      exec (.b2u16 true 2) s = .next (s.respond (Response.ok (.uint16 v))) ∧
      v.toNat = (t.request.data.byte 0).toNat * 256 + (t.request.data.byte 1).toNat)

/-- R103. -/
def Obligations.B2u32Meaning : Prop :=
  (∀ h : Header, fieldRsv h = 0 → fieldOp h = 0x3 → decode h = .ok (.b2u32 (fieldSrcOk h) (fieldLen h))) ∧
  ∀ (s : State) (t : Transaction), s.txn = some t → 84 ≤ s.maxLen.val →
    (fieldOp t.request.header = 0x3 → fieldRsv t.request.header ≠ 0 → step s = .next (s.raise .illegalOp)) ∧
    (∀ len, len ≤ s.maxLen.val → exec (.b2u32 false len) s = .next (s.raise .sourceFailure)) ∧
    (∀ len, len ≤ s.maxLen.val → t.request.data.size = len → len ≠ 4 →
      exec (.b2u32 true len) s = .next (s.raise .operandLength)) ∧
    (t.request.data.size = 4 → ∃ v : Word32,
      exec (.b2u32 true 4) s = .next (s.respond (Response.ok (.uint32 v))) ∧
      v.toNat = (t.request.data.byte 0).toNat * 2 ^ 24 + (t.request.data.byte 1).toNat * 2 ^ 16 +
        (t.request.data.byte 2).toNat * 2 ^ 8 + (t.request.data.byte 3).toNat)

/-- R104: every pattern, either `src_ok`, whatever buffer came with the request. -/
def Obligations.F322bMeaning : Prop :=
  (∀ h : Header, fieldRsv h = 0 → fieldOp h = 0x4 → decode h = .ok (.f322b (fieldSrcOk h) (fieldArg h))) ∧
  ∀ (s : State) (t : Transaction) (srcOk : Bool) (w : Word32), s.txn = some t →
    (fieldOp t.request.header = 0x4 → fieldRsv t.request.header ≠ 0 → step s = .next (s.raise .illegalOp)) ∧
    ∃ b3 b2 b1 b0 : Byte, exec (.f322b srcOk w) s = .next (s.respond (Response.ok (.bytes [b3, b2, b1, b0]))) ∧
      w = b3 ++ b2 ++ b1 ++ b0

/-- R105: any length, 0 included; character k is byte k; no length error. -/
def Obligations.B2ascMeaning : Prop :=
  (∀ h : Header, fieldRsv h = 0 → fieldOp h = 0x5 → decode h = .ok (.b2asc (fieldSrcOk h) (fieldLen h))) ∧
  ∀ (s : State) (t : Transaction), s.txn = some t → 84 ≤ s.maxLen.val →
    (fieldOp t.request.header = 0x5 → fieldRsv t.request.header ≠ 0 → step s = .next (s.raise .illegalOp)) ∧
    (∀ len, len ≤ s.maxLen.val → exec (.b2asc false len) s = .next (s.raise .sourceFailure)) ∧
    (∀ len, len ≤ s.maxLen.val → t.request.data.size = len → ∃ txt : Text,
      exec (.b2asc true len) s = .next (s.respond (Response.ok (.text txt))) ∧ txt.length = len ∧
      ∀ k, k < len → txt[k]? = some (t.request.data.byte k))

/-- R130, R53. -/
def Obligations.VtxMeaning : Prop :=
  (∀ h : Header, fieldRsv h = 0 → fieldOp h = 0x6 → decode h = .ok (.vtx (fieldSrcOk h) (fieldLen h))) ∧
  ∀ (s : State) (t : Transaction), s.txn = some t → 84 ≤ s.maxLen.val →
    (fieldOp t.request.header = 0x6 → fieldRsv t.request.header ≠ 0 → step s = .next (s.raise .illegalOp)) ∧
    (∀ len, len ≤ s.maxLen.val → exec (.vtx false len) s = .next (s.raise .sourceFailure)) ∧
    (∀ len, len ≤ s.maxLen.val → t.request.data.size = len → len ≠ 12 →
      exec (.vtx true len) s = .next (s.raise .operandLength)) ∧
    (t.request.data.size = 12 →
      exec (.vtx true 12) s = .next (s.respond (Response.ok (.vertex
        { x := t.request.data.wordView 0, y := t.request.data.wordView 4, z := t.request.data.wordView 8 }))))

/-- R140, R52. -/
def Obligations.TriMeaning : Prop :=
  (∀ h : Header, fieldRsv h = 0 → fieldOp h = 0x7 → decode h = .ok (.tri (fieldSrcOk h) (fieldLen h))) ∧
  ∀ (s : State) (t : Transaction), s.txn = some t → 84 ≤ s.maxLen.val →
    (fieldOp t.request.header = 0x7 → fieldRsv t.request.header ≠ 0 → step s = .next (s.raise .illegalOp)) ∧
    (∀ len, len ≤ s.maxLen.val → exec (.tri false len) s = .next (s.raise .sourceFailure)) ∧
    (∀ len, len ≤ s.maxLen.val → t.request.data.size = len → len ≠ 50 →
      exec (.tri true len) s = .next (s.raise .recordLength)) ∧
    (t.request.data.size = 50 →
      exec (.tri true 50) s = .next (s.respond (Response.ok (.triangle
        { normal := t.request.data.vertexView 0, v0 := t.request.data.vertexView 12,
          v1 := t.request.data.vertexView 24, v2 := t.request.data.vertexView 36,
          attr := t.request.data.halfView 48 }))))

/-- R150 to R156: the errors in their order, and the Mesh of a whole file. -/
def Obligations.DecMeaning : Prop :=
  (∀ h : Header, fieldRsv h = 0 → fieldOp h = 0x8 → decode h = .ok (.dec (fieldSrcOk h) (fieldLen h))) ∧
  ∀ (s : State) (t : Transaction), s.txn = some t → 84 ≤ s.maxLen.val →
    (fieldOp t.request.header = 0x8 → fieldRsv t.request.header ≠ 0 → step s = .next (s.raise .illegalOp)) ∧
    (∀ len, len ≤ s.maxLen.val → exec (.dec false len) s = .next (s.raise .sourceFailure)) ∧
    (∀ len, len < 84 → t.request.data.size = len → exec (.dec true len) s = .next (s.raise .truncatedInput)) ∧
    (∀ len, len ≤ s.maxLen.val → t.request.data.size = len → 84 ≤ len → (len - 84) % 50 ≠ 0 →
      exec (.dec true len) s = .next (s.raise .misalignedTrailingData)) ∧
    (∀ n, 84 + 50 * n ≤ s.maxLen.val → t.request.data.size = 84 + 50 * n → ∃ m : Mesh,
      exec (.dec true (84 + 50 * n)) s = .next (s.respond (Response.ok (.mesh m))) ∧
      m.header.length = 80 ∧ (∀ k, k < 80 → m.header[k]? = some (t.request.data.byte k)) ∧
      m.count.toNat = n ∧ m.triangles.length = n ∧
      ∀ k, k < n → m.triangles[k]? = some (t.request.data.triangleView (84 + 50 * k)))

/-- 60_exceptions.md R174, 93_implementation_defined.md U12, resting on log 2: each of the seven format B operations with
`src_ok = 0` ends in ERR_SOURCE whatever its length and whatever buffer came with it, a length above MAXLEN and a buffer of
another size included; so two transactions that differ in length and buffer alone end alike. -/
def Obligations.SourceFailureWhateverTheBuffer : Prop :=
  ∀ (op : Bool → Nat → Instr), op ∈ [Instr.b2f32, Instr.b2u16, Instr.b2u32, Instr.b2asc, Instr.vtx, Instr.tri, Instr.dec] →
    (∀ (s : State) (t : Transaction) (len : Nat), s.txn = some t →
      exec (op false len) s = .next (s.raise .sourceFailure)) ∧
    ∀ (s : State) (h h' : Header) (data data' : Memory) (rest : List Request) (len len' : Nat), s.txn = none →
      decode h = .ok (op false len) → decode h' = .ok (op false len') →
      step { s with requests := ⟨h, data⟩ :: rest } = step { s with requests := ⟨h', data'⟩ :: rest }

/-- 70_reset_and_hazards.md R203 a, b, e, 00_scope.md R10: each of the seven format B operations with `src_ok = 1` is
refused by name when its length exceeds MAXLEN, and when its buffer is not exactly `len` bytes. That the first refusal comes
before the second, and both before the operation's own length check, is the model's choice (log 15, DESIGN CHOICE): the
spec gives such a transaction no meaning and these tests no order. -/
def Obligations.HostDutiesBrokenAreRefused : Prop :=
  ∀ (op : Bool → Nat → Instr), op ∈ [Instr.b2f32, Instr.b2u16, Instr.b2u32, Instr.b2asc, Instr.vtx, Instr.tri, Instr.dec] →
    ∀ (s : State) (t : Transaction) (len : Nat), s.txn = some t →
      (s.maxLen.val < len → exec (op true len) s = .refused .lenAboveMax) ∧
      (len ≤ s.maxLen.val → t.request.data.size ≠ len → exec (op true len) s = .refused .bufferNotLen)

/-- 00_scope.md R10: MAXLEN lies between 84 and 2^32 - 1 in every legal state, and it is a constant of the unit: no step,
no tick and no reset changes it. -/
def Obligations.MaxLenIsConstant : Prop :=
  (∀ s : State, s.wf = true → 84 ≤ s.maxLen.val ∧ s.maxLen.val ≤ 2 ^ 32 - 1) ∧
  (∀ s s' : State, step s = .next s' → s'.maxLen = s.maxLen) ∧
  (∀ s s' : State, tick s = .next s' → s'.maxLen = s.maxLen) ∧
  (∀ s : State, s.hostReset.maxLen = s.maxLen)

/-! ## Whole-machine rules -/

/-- Every legal state steps to a legal state: buffers stay canonical, every response has the shape of 10_state.md R28 and
R29 (a result exactly on OK, 4 bytes, 80 header characters, as many triangles as the count). -/
def Obligations.StepKeepsLegalState : Prop :=
  ∀ s s' : State, s.wf = true → step s = .next s' → s'.wf = true

/-- Every legal state ticks to a legal state: the working values of a DEC transaction are, phase by phase, the ones its
request gives (10_state.md R26; 43_file_decoder.md R151 to R157). -/
def Obligations.TickKeepsLegalState : Prop :=
  ∀ s s' : State, s.wf = true → tick s = .next s' → s'.wf = true

/-- The frame of every operation: one response more and the transaction gone; the other responses, the waiting requests
and every byte of their buffers are as before (20_memory.md R40; 70_reset_and_hazards.md R204 a, b, e). -/
def Obligations.OperationFrame : Prop :=
  ∀ (i : Instr) (s s' : State), exec i s = .next s' →
    s'.txn = none ∧ s'.maxLen = s.maxLen ∧ (∃ a, s'.responses = s.responses ++ [a]) ∧ s'.requests = s.requests ∧
    ∀ (k : Nat) (r' : Request), s'.requests[k]? = some r' →
      ∃ r, s.requests[k]? = some r ∧ r'.header = r.header ∧ r'.data.size = r.data.size ∧
        ∀ a, r'.data.byte a = r.data.byte a

/-- 20_memory.md R47: no operation, in any state, reads outside the operand buffer; so no step of the machine faults. -/
def Obligations.NoReadOutsideBuffer : Prop :=
  (∀ (i : Instr) (s : State) (f : Fault), exec i s ≠ .fault f) ∧
  (∀ (s : State) (f : Fault), step s ≠ .fault f) ∧
  (∀ (s : State) (f : Fault), s.wf = true → tick s ≠ .fault f)

/-- 60_exceptions.md R170 (table), R171 to R175: which operations raise which error kind, and on what condition; F322B and
B2ASC have no length error, and no operation raises IllegalOp. -/
def Obligations.ErrorKindSources : Prop :=
  ∀ (i : Instr) (s s' : State) (k : ErrorKind), exec i s = .next s' → s'.responses = s.responses ++ [Response.error k] →
    (k = .sourceFailure ∧ i.srcOk = false ∧ ∀ ok w, i ≠ .f322b ok w) ∨
    (k = .operandLength ∧ ∃ len, (i = .b2f32 true len ∧ len ≠ 4) ∨ (i = .b2u16 true len ∧ len ≠ 2) ∨
      (i = .b2u32 true len ∧ len ≠ 4) ∨ (i = .vtx true len ∧ len ≠ 12)) ∨
    (k = .recordLength ∧ ∃ len, i = .tri true len ∧ len ≠ 50) ∨
    (k = .truncatedInput ∧ ∃ len, i = .dec true len ∧ len < 84) ∨
    (k = .misalignedTrailingData ∧ ∃ len, i = .dec true len ∧ 84 ≤ len ∧ (len - 84) % 50 ≠ 0)

/-- 43_file_decoder.md R158: DEC, in any state, never reports RecordLength or OperandLength. -/
def Obligations.DecNeverReportsInnerErrors : Prop :=
  ∀ (s s' : State) (srcOk : Bool) (len : Nat), exec (.dec srcOk len) s = .next s' →
    s'.responses ≠ s.responses ++ [Response.error .recordLength] ∧
    s'.responses ≠ s.responses ++ [Response.error .operandLength]

/-- 10_state.md R28, 43_file_decoder.md R160: the response has a result exactly when its status is OK, and the operation
fixes the type of the result. -/
def Obligations.ResultTypeOfOperation : Prop :=
  ∀ (i : Instr) (s s' : State) (a : Response), exec i s = .next s' → s'.responses = s.responses ++ [a] →
    (a.result = none ↔ a.status ≠ .ok) ∧
    ∀ v, a.result = some v →
      match i with
      | .b2f32 _ _ => ∃ p, v = .float32 p
      | .b2u16 _ _ => ∃ x, v = .uint16 x
      | .b2u32 _ _ => ∃ x, v = .uint32 x
      | .f322b _ _ => ∃ b, v = .bytes b ∧ b.length = 4
      | .b2asc _ len => ∃ txt, v = .text txt ∧ txt.length = len
      | .vtx _ _ => ∃ x, v = .vertex x
      | .tri _ _ => ∃ x, v = .triangle x
      | .dec _ len => ∃ m, v = .mesh m ∧ m.header.length = 80 ∧ m.triangles.length = m.count.toNat ∧
          84 + 50 * m.count.toNat = len ∧ m.count.toNat ≤ 85899344

/-- 00_scope.md R17: the response of a transaction depends on its request alone. Two idle units with the same MAXLEN and
the same oldest request, whatever else waits and whatever was answered before, both answer it alike or both refuse it alike. -/
def Obligations.ResponseDependsOnRequestAlone : Prop :=
  ∀ (s1 s2 : State) (r : Request) (rest1 rest2 : List Request), s1.txn = none → s2.txn = none →
    s1.maxLen = s2.maxLen →
    s1.requests = r :: rest1 → s2.requests = r :: rest2 →
    (∃ a, step s1 = .next { maxLen := s1.maxLen, requests := rest1, txn := none, responses := s1.responses ++ [a] } ∧
          step s2 = .next { maxLen := s1.maxLen, requests := rest2, txn := none, responses := s2.responses ++ [a] }) ∨
    (∃ x, step s1 = .refused x ∧ step s2 = .refused x)

/-- After 70_reset_and_hazards.md R204 a and R203: exactly the accepted requests get a response, each exactly one; a request
that is not accepted is refused. WHICH requests are accepted is in part the model's reading: that `src_ok = 0` is accepted
with a length above MAXLEN or a buffer of another size rests on log 2 (DEDUCED), that F322B and a header that selects no
operation are accepted with any buffer on log 8 (DEDUCED). -/
def Obligations.AcceptedRequestsAreAnswered : Prop :=
  ∀ (maxLen : Length) (r : Request), (r.accepted maxLen = true ↔ ∃ a, Answers maxLen r a) ∧
    (r.accepted maxLen = false ↔ ∃ x, step ((State.fresh maxLen).issue r) = .refused x) ∧
    ∀ a b, Answers maxLen r a → Answers maxLen r b → a = b

/-- 70_reset_and_hazards.md R204 b, R205, 60_exceptions.md R180: an idle unit with any number of accepted requests waiting
serves them in that many steps, and issues to each, in request order, the answer it would get as the first request after
reset. -/
def Obligations.RunAnswersInRequestOrder : Prop :=
  ∀ (rs : List Request) (as : List Response) (s : State), List.Forall₂ (Answers s.maxLen) rs as → s.txn = none → s.requests = rs →
    Sys2Proof.core.run rs.length s = 
      .next { maxLen := s.maxLen, requests := [], txn := none, responses := s.responses ++ as }

/-! ## Byte order, text, layouts -/

/-- 00_scope.md R13: what `be16`, `be32` and `bytes32` are, and that the last two are inverse to each other. -/
def Obligations.AssemblyPrimitives : Prop :=
  (∀ a b : Byte, (be16 [a, b]).toNat = a.toNat * 256 + b.toNat ∧ be16 [a, b] = a ++ b) ∧
  (∀ a b c d : Byte, (be32 [a, b, c, d]).toNat = a.toNat * 2 ^ 24 + b.toNat * 2 ^ 16 + c.toNat * 2 ^ 8 + d.toNat ∧
    be32 [a, b, c, d] = a ++ b ++ c ++ d) ∧
  (∀ w : Word32, bytes32 w =
    [BitVec.ofNat 8 (w.toNat / 2 ^ 24), BitVec.ofNat 8 (w.toNat / 2 ^ 16), BitVec.ofNat 8 (w.toNat / 2 ^ 8),
      BitVec.ofNat 8 w.toNat]) ∧
  (∀ w : Word32, be32 (bytes32 w) = w) ∧ ∀ b : List Byte, b.length = 4 → bytes32 (be32 b) = b

/-- 40_numeric_codec.md R107: `be16` and `be32` are bijections from byte sequences of their length. -/
def Obligations.AssemblyIsBijective : Prop :=
  (∀ b b' : List Byte, b.length = 2 → b'.length = 2 → be16 b = be16 b' → b = b') ∧
  (∀ v : Word16, ∃ b : List Byte, b.length = 2 ∧ be16 b = v) ∧
  (∀ b b' : List Byte, b.length = 4 → b'.length = 4 → be32 b = be32 b' → b = b') ∧
  (∀ v : Word32, ∃ b : List Byte, b.length = 4 ∧ be32 b = v)

/-- 40_numeric_codec.md R106: both round trips between B2F32 and F322B, through the unit, for all patterns. -/
def Obligations.RoundTripThroughUnit : Prop :=
  ∀ maxLen : Length, 84 ≤ maxLen.val →
  (∀ b : List Byte, b.length = 4 → ∃ p, Answers maxLen (lineB .b2f32 true b) (Response.ok (.float32 p)) ∧
    Answers maxLen (lineW p) (Response.ok (.bytes b))) ∧
  (∀ w : Word32, ∃ b, Answers maxLen (lineW w) (Response.ok (.bytes b)) ∧
    Answers maxLen (lineB .b2f32 true b) (Response.ok (.float32 w)))

/-- 20_memory.md R44: for the same 4 bytes, B2U32 gives the bits of B2F32, and B2U16 of the halves gives its bits 31:16
and 15:0. -/
def Obligations.MixedWidthViews : Prop :=
  ∀ (maxLen : Length) (a b c d : Byte), 84 ≤ maxLen.val → ∃ w : Word32,
    Answers maxLen (lineB .b2f32 true [a, b, c, d]) (Response.ok (.float32 w)) ∧
    Answers maxLen (lineB .b2u32 true [a, b, c, d]) (Response.ok (.uint32 w)) ∧
    Answers maxLen (lineB .b2u16 true [a, b]) (Response.ok (.uint16 (w.extractLsb' 16 16))) ∧
    Answers maxLen (lineB .b2u16 true [c, d]) (Response.ok (.uint16 (w.extractLsb' 0 16)))

/-- 41_vertex_decoder.md R131: lane c of a VTX result depends on bytes 4c to 4c + 3 alone. -/
def Obligations.VertexLanesAreIndependent : Prop :=
  ∀ (maxLen : Length) (b b' : List Byte) (v v' : Vertex) (c : Nat), b.length = 12 → b'.length = 12 → c < 3 →
    Answers maxLen (lineB .vtx true b) (Response.ok (.vertex v)) → Answers maxLen (lineB .vtx true b') (Response.ok (.vertex v')) →
    (v.component c = v'.component c ↔ ∀ k, k < 4 → b[4 * c + k]? = b'[4 * c + k]?)

/-- 42_triangle_decoder.md R141: the mapping from 50-byte records to Triangles is a bijection. -/
def Obligations.TriangleRecordsBijective : Prop :=
  ∀ maxLen : Length, 84 ≤ maxLen.val →
  (∀ b : List Byte, b.length = 50 → ∃ t, Answers maxLen (lineB .tri true b) (Response.ok (.triangle t))) ∧
  (∀ (b b' : List Byte) (t : Triangle), b.length = 50 → b'.length = 50 →
    Answers maxLen (lineB .tri true b) (Response.ok (.triangle t)) → Answers maxLen (lineB .tri true b') (Response.ok (.triangle t)) →
    b = b') ∧
  (∀ t : Triangle, ∃ b : List Byte, b.length = 50 ∧ Answers maxLen (lineB .tri true b) (Response.ok (.triangle t)))

/-- 20_memory.md R54. Inside DEC, component c of vertex slot j of triangle k is the float32 at 84 + 50k + 12j + 4c, the
attribute of triangle k the uint16 at 84 + 50k + 48, header character m the byte at m; inside TRI the same without
84 + 50k; inside VTX the term 4c alone. -/
def Obligations.EffectiveAddresses : Prop :=
  (∀ (data : Memory) (len : Nat) (m : Mesh), data.size = len → opDec len data = some (Response.ok (.mesh m)) →
    (∀ i, i < 80 → m.header[i]? = some (data.byte i)) ∧
    ∀ k, k < m.count.toNat → ∃ t, m.triangles[k]? = some t ∧ t.attr = data.halfView (84 + 50 * k + 48) ∧
      ∀ j c, j < 4 → c < 3 →
        (t.slot j).bind (fun v => v.component c) = some (data.wordView (84 + 50 * k + 12 * j + 4 * c))) ∧
  (∀ (data : Memory) (len : Nat) (t : Triangle), data.size = len → opTri len data = some (Response.ok (.triangle t)) →
    t.attr = data.halfView 48 ∧
      ∀ j c, j < 4 → c < 3 → (t.slot j).bind (fun v => v.component c) = some (data.wordView (12 * j + 4 * c))) ∧
  (∀ (data : Memory) (len : Nat) (v : Vertex), data.size = len → opVtx len data = some (Response.ok (.vertex v)) →
    ∀ c, c < 3 → v.component c = some (data.wordView (4 * c)))

/-- 20_memory.md R41, 42_triangle_decoder.md R140: element k of DEC's sequence is what TRI answers to window k, issued as
a request of its own. -/
def Obligations.DecElementsAreTriAnswers : Prop :=
  ∀ (maxLen : Length) (file : List Byte) (m : Mesh) (k : Nat), Answers maxLen (lineB .dec true file) (Response.ok (.mesh m)) → k < m.count.toNat →
    ∃ t, m.triangles[k]? = some t ∧
      Answers maxLen (lineB .tri true ((file.drop (84 + 50 * k)).take 50)) (Response.ok (.triangle t))

/-- 43_file_decoder.md R152: DEC's header is what B2ASC answers to the first 80 bytes. -/
def Obligations.DecHeaderIsB2ascText : Prop :=
  ∀ (maxLen : Length) (file : List Byte) (m : Mesh), Answers maxLen (lineB .dec true file) (Response.ok (.mesh m)) →
    Answers maxLen (lineB .b2asc true (file.take 80)) (Response.ok (.text m.header))

/-- 20_memory.md R60: the four declared-count bytes must exist, since a buffer of fewer than 84 bytes is TruncatedInput; but
they reach no output: two DEC requests with the same header word and buffers that differ at most at offsets 80 to 83 have
the same step. -/
def Obligations.DeclaredCountReachesNoOutput : Prop :=
  (∀ (s : State) (t : Transaction) (len : Nat), s.txn = some t → len ≤ s.maxLen.val → t.request.data.size = len →
    len < 84 → exec (.dec true len) s = .next (s.raise .truncatedInput)) ∧
  ∀ (s : State) (h : Header) (data data' : Memory) (rest : List Request), s.txn = none → fieldOp h = 0x8 →
    sameButDeclaredCount data data' →
    step { s with requests := ⟨h, data⟩ :: rest } = step { s with requests := ⟨h, data'⟩ :: rest }

/-- 95_test_vectors.md S10: a file built from an 80-byte header, any 4 bytes and k complete records decodes to that header,
count k, and the k triangles TRI answers to the records, in file order. -/
def Obligations.FileOfRecordsDecodes : Prop :=
  ∀ (maxLen : Length) (hdr cnt : List Byte) (records : List (List Byte)) (ts : List Triangle), hdr.length = 80 → cnt.length = 4 →
    (∀ b ∈ records, b.length = 50) → 84 + 50 * records.length ≤ maxLen.val →
    List.Forall₂ (fun b t => Answers maxLen (lineB .tri true b) (Response.ok (.triangle t))) records ts →
    ∃ m : Mesh, Answers maxLen (lineB .dec true (hdr ++ cnt ++ records.flatten)) (Response.ok (.mesh m)) ∧
      m.header = hdr ∧ m.count.toNat = records.length ∧ m.triangles = ts

/-- 40_numeric_codec.md R108: no pattern is canonicalised, quieted or flushed: two 4-byte operands with the same B2F32
answer are the same bytes, and two words with the same F322B answer are the same word. -/
def Obligations.NoPatternIsMerged : Prop :=
  ∀ maxLen : Length,
  (∀ (b b' : List Byte) (a : Response), b.length = 4 → b'.length = 4 →
    Answers maxLen (lineB .b2f32 true b) a → Answers maxLen (lineB .b2f32 true b') a → b = b') ∧
  (∀ (w w' : Word32) (a : Response), Answers maxLen (lineW w) a → Answers maxLen (lineW w') a → w = w')

/-- 30_encoding.md R75, resting on log 17 (PRESUMED: the IEEE-754 single-precision layout): sign, exponent and fraction are
the whole pattern, nothing lost; exactly the infinities and NaNs have no value; two patterns have the same value only if they
are the same pattern or the two zeros; and the source's byte examples are 10, 100, 20 and 0.15625, in units of 2^-149. -/
def Obligations.Float32Layout : Prop :=
  (∀ p : Word32, BitVec.ofBool (f32Sign p) ++ f32Exponent p ++ f32Fraction p = p) ∧
  (∀ p : Word32, f32ValueUlps p = none ↔
    f32Class p = .infinity ∨ f32Class p = .quietNaN ∨ f32Class p = .signallingNaN) ∧
  (∀ (p q : Word32) (v : Int), f32ValueUlps p = some v → f32ValueUlps q = some v →
    p = q ∨ (f32Class p = .zero ∧ f32Class q = .zero)) ∧
  f32ValueUlps (be32 [0x41#8, 0x20#8, 0x00#8, 0x00#8]) = some (10 * 2 ^ 149) ∧
  f32ValueUlps (be32 [0x42#8, 0xC8#8, 0x00#8, 0x00#8]) = some (100 * 2 ^ 149) ∧
  f32ValueUlps (be32 [0x41#8, 0xA0#8, 0x00#8, 0x00#8]) = some (20 * 2 ^ 149) ∧
  f32ValueUlps (be32 [0x3E#8, 0x20#8, 0x00#8, 0x00#8]) = some (15625 * 2 ^ 149 / 100000)

/-! ## The operand buffer as data (log 3) -/

/-- Buffers made from bytes are canonical and read back as those bytes; canonical buffers that agree on size and on every
offset inside are the same data. -/
def Obligations.BuffersAreCanonical : Prop :=
  (∀ b : List Byte, (Memory.ofBytes b).wf = true ∧ (Memory.ofBytes b).toBytes = b) ∧
  (∀ m m' : Memory, m.wf = true → m'.wf = true → m.size = m'.size → (∀ a, a < m.size → m.byte a = m'.byte a) → m = m')

/-! ## The phases (43_file_decoder.md R157) -/

/-- Phase by phase is the same machine: from every legal state, at most 5 + count ticks lead to what one step answers, a
next state or a refusal (R157, R158; 70_reset_and_hazards.md R206: finitely many steps). The bound 5 + count rests on how
many ticks the model gives the phases (log 10, DESIGN CHOICE), and what one step answers in the middle of a transaction on
log 9 (DESIGN CHOICE). -/
def Obligations.PhasesRefineStep : Prop :=
  ∀ s : State, s.wf = true → ∃ n, ticks n s = step s ∧
    (∀ r s1, fetch s = some (r, s1) → n ≤ 5 + (fieldLen r.header - 84) / 50)

/-- R157: phases move forward only: a tick that does not end the transaction raises the rank of its phase; and ERROR is
entered from CHECK_LEN (TruncatedInput) and CHECK_ALIGN (MisalignedTrailingData) alone. -/
def Obligations.PhasesMoveForward : Prop :=
  ∀ (s s' : State) (t t' : Transaction), s.wf = true → s.txn = some t → tick s = .next s' → s'.txn = some t' →
    t.phase.rank < t'.phase.rank ∧
    ∀ k, t'.phase = .error k → (t.phase = .checkLen ∧ k = .truncatedInput) ∨
      (∃ h, t.phase = .checkAlign h ∧ k = .misalignedTrailingData)

/-- 20_memory.md R40, R50: a tick inside a transaction leaves the latched request, every byte of its buffer, the waiting
requests and the responses as they are, until the tick that issues the response, which adds exactly one. -/
def Obligations.TickFrame : Prop :=
  ∀ (s s' : State) (t : Transaction), s.txn = some t → tick s = .next s' →
    s'.requests = s.requests ∧ s'.maxLen = s.maxLen ∧
    ((∃ t', s'.txn = some t' ∧ t'.request = t.request ∧ s'.responses = s.responses ∧
        ∀ a, t'.request.data.byte a = t.request.data.byte a) ∨
     (s'.txn = none ∧ ∃ a, s'.responses = s.responses ++ [a] ∧
        ((∃ m, t.phase = .done m ∧ a = Response.ok (.mesh m)) ∨ ∃ k, t.phase = .error k ∧ a = Response.error k)))
end

