-- ==== Sys2Proof/Laws/Config.lean ====
section
/-! SUPPORT. MAXLEN and its range (00_scope.md R10). -/
namespace Sys2Proof.Config

/-- A length up to MAXLEN is a number of 32 bits. -/
theorem len_lt {maxLen : Length} {len : Nat} (h : len ≤ maxLen.val) : len < 2 ^ 32 := lt_of_le_of_lt h maxLen.isLt

theorem defaultMaxLen_least : leastMaxLen ≤ defaultMaxLen.val := by decide

end Sys2Proof.Config
end

