-- ==== Sys2Proof/Laws/Header.lean ====
section
/-! SUPPORT. The header's bits: the fields of a header made as `(arg << 32) | (src_ok << 4) | op` (30_encoding.md R83). -/
namespace Sys2Proof

/-- The header of R83 from its three parts. -/
def packHeader (arg : Word32) (srcOk : Bool) (op : BitVec 4) : Header :=
  (arg.setWidth 64 <<< 32) ||| ((BitVec.ofBool srcOk).setWidth 64 <<< 4) ||| op.setWidth 64

theorem encode_eq_packHeader (i : Instr) : encode i = packHeader i.arg i.srcOk i.op := rfl

/-- Bit k of a packed header: `op` below 4, `src_ok` at 4, 0 from 5 to 31, `arg` from 32 on. -/
theorem packHeader_getLsbD (arg : Word32) (srcOk : Bool) (op : BitVec 4) (k : Nat) (hk : k < 64) :
    (packHeader arg srcOk op).getLsbD k =
      if k < 4 then op.getLsbD k else if k = 4 then srcOk else if k < 32 then false else arg.getLsbD (k - 32) := by
  simp only [packHeader, BitVec.getLsbD_or, BitVec.getLsbD_shiftLeft, BitVec.getLsbD_setWidth, BitVec.getLsbD_ofBool]
  by_cases h4 : k < 4
  · simp [h4, hk, show k < 32 by omega]
  · have h64 : k - 4 < 64 := by omega
    have hop : op.getLsbD k = false := BitVec.getLsbD_of_ge _ _ (by omega)
    by_cases he : k = 4
    · subst he; simp
    · by_cases h32 : k < 32
      · simp [h4, he, h32, hop, show k - 4 ≠ 0 by omega]
      · simp [h4, he, h32, hop, hk, show k - 4 ≠ 0 by omega, show k - 32 < 64 by omega]

theorem fieldOp_packHeader (arg : Word32) (srcOk : Bool) (op : BitVec 4) : fieldOp (packHeader arg srcOk op) = op := by
  apply BitVec.eq_of_getLsbD_eq
  intro k hk
  rw [fieldOp, BitVec.getLsbD_extractLsb', packHeader_getLsbD _ _ _ _ (by omega)]
  simp [hk]

theorem fieldSrcOk_packHeader (arg : Word32) (srcOk : Bool) (op : BitVec 4) :
    fieldSrcOk (packHeader arg srcOk op) = srcOk := by
  rw [fieldSrcOk, packHeader_getLsbD _ _ _ _ (by omega)]
  simp

theorem fieldRsv_packHeader (arg : Word32) (srcOk : Bool) (op : BitVec 4) : fieldRsv (packHeader arg srcOk op) = 0 := by
  apply BitVec.eq_of_getLsbD_eq
  intro k hk
  rw [fieldRsv, BitVec.getLsbD_extractLsb', packHeader_getLsbD _ _ _ _ (by omega)]
  simp [show ¬(5 + k < 4) by omega, show 5 + k ≠ 4 by omega, show 5 + k < 32 by omega]

theorem fieldArg_packHeader (arg : Word32) (srcOk : Bool) (op : BitVec 4) :
    fieldArg (packHeader arg srcOk op) = arg := by
  apply BitVec.eq_of_getLsbD_eq
  intro k hk
  rw [fieldArg, BitVec.getLsbD_extractLsb', packHeader_getLsbD _ _ _ _ (by omega)]
  simp [hk, show ¬(32 + k < 4) by omega, show 32 + k ≠ 4 by omega]

/-- A header is its fields, packed, when its reserved bits are 0. -/
theorem packHeader_fields (h : Header) (hr : fieldRsv h = 0) : packHeader (fieldArg h) (fieldSrcOk h) (fieldOp h) = h := by
  apply BitVec.eq_of_getLsbD_eq
  intro k hk
  rw [packHeader_getLsbD _ _ _ _ hk]
  simp only [fieldOp, fieldArg, fieldSrcOk, BitVec.getLsbD_extractLsb']
  by_cases h4 : k < 4
  · simp [h4]
  · by_cases he : k = 4
    · simp [he]
    · by_cases h32 : k < 32
      · have hb : (fieldRsv h).getLsbD (k - 5) = false := by rw [hr]; simp
        rw [fieldRsv, BitVec.getLsbD_extractLsb'] at hb
        have hk5 : 5 + (k - 5) = k := by omega
        simp only [show k - 5 < 27 by omega, decide_true, Bool.true_and, hk5] at hb
        simp [h4, he, h32, hb]
      · simp [h4, he, h32, show k - 32 < 32 by omega, show 32 + (k - 32) = k by omega]

/-- A length of 32 bits survives `arg`. -/
theorem len_toNat {len : Nat} (h : lenFits len = true) : (BitVec.ofNat 32 len).toNat = len := by
  have : len < 2 ^ 32 := of_decide_eq_true h
  rw [BitVec.toNat_ofNat, Nat.mod_eq_of_lt this]

end Sys2Proof
end

