-- ==== Sys2Proof/Laws/Decode.lean ====
section
/-! SUPPORT. The decoder, said once: what a decoded header's fields are, and when there is none. -/
namespace Sys2Proof

theorem decode_reserved {h : Header} (hr : fieldRsv h ≠ 0) : decode h = .error .reservedBits := if_pos hr

theorem decode_unreserved {h : Header} (hr : fieldRsv h = 0) : decode h =
    match (fieldOp h).toNat with
    | 1 => .ok (.b2f32 (fieldSrcOk h) (fieldLen h))
    | 2 => .ok (.b2u16 (fieldSrcOk h) (fieldLen h))
    | 3 => .ok (.b2u32 (fieldSrcOk h) (fieldLen h))
    | 4 => .ok (.f322b (fieldSrcOk h) (fieldArg h))
    | 5 => .ok (.b2asc (fieldSrcOk h) (fieldLen h))
    | 6 => .ok (.vtx (fieldSrcOk h) (fieldLen h))
    | 7 => .ok (.tri (fieldSrcOk h) (fieldLen h))
    | 8 => .ok (.dec (fieldSrcOk h) (fieldLen h))
    | _ => .error (.noOperation (fieldOp h)) := if_neg (not_not.mpr hr)

theorem fieldLen_lt (h : Header) : fieldLen h < 2 ^ 32 := (fieldArg h).isLt

theorem ofNat_fieldLen (h : Header) : BitVec.ofNat 32 (fieldLen h) = fieldArg h := by simp [fieldLen]

/-- The fields of a header that decodes, and that its operation is well formed. -/
theorem decode_ok_fields {h : Header} {i : Instr} (hd : decode h = .ok i) :
    fieldRsv h = 0 ∧ fieldOp h = i.op ∧ fieldSrcOk h = i.srcOk ∧ fieldArg h = i.arg ∧ i.wellFormed = true := by
  have hr : fieldRsv h = 0 := by
    by_contra hr
    rw [decode_reserved hr] at hd
    cases hd
  refine ⟨hr, ?_⟩
  rw [decode_unreserved hr] at hd
  have hl : lenFits (fieldLen h) = true := decide_eq_true (fieldLen_lt h)
  have hop : ∀ n : Nat, (fieldOp h).toNat = n → fieldOp h = BitVec.ofNat 4 n := fun n e => by simp [← e]
  split at hd <;> cases hd <;> rename_i e <;>
    exact ⟨hop _ e, rfl, by first | rfl | exact (ofNat_fieldLen h).symm, by first | rfl | exact hl⟩

end Sys2Proof
end

