-- ==== Sys2Proof/Laws/Memory.lean ====
section
/-! SUPPORT. The operand buffer: what a read gives, and the canonical form. -/
namespace Sys2Proof.Machine

theorem Memory.read_inside (m : Memory) {a n : Nat} (h : a + n ≤ m.size) :
    m.read a n = some ((List.range n).map fun k => m.byte (a + k)) := if_pos h

theorem Memory.read_outside (m : Memory) {a n : Nat} (h : ¬a + n ≤ m.size) : m.read a n = none := if_neg h

theorem Memory.readText_inside (m : Memory) {a n : Nat} (h : a + n ≤ m.size) :
    m.readText a n = some ((List.range n).map fun k => m.byte (a + k)) := by
  simp [Memory.readText, m.read_inside h, charOf, Function.comp_def]

/-! ## Cells in canonical form -/

theorem cellsWf_cons {size low a : Nat} {b : Byte} {rest : List Host.Cell} :
    cellsWf size low ((a, b) :: rest) = true ↔ low ≤ a ∧ a < size ∧ b ≠ 0 ∧ cellsWf size (a + 1) rest = true := by
  simp [cellsWf, and_assoc]

theorem cellsWf_mono {size : Nat} : ∀ {low low' : Nat} {cells : List Host.Cell}, low' ≤ low →
    cellsWf size low cells = true → cellsWf size low' cells = true
  | _, _, [], _, _ => rfl
  | _, _, (_, _) :: _, hl, h => by
    rw [cellsWf_cons] at h ⊢
    exact ⟨hl.trans h.1, h.2⟩

/-- In canonical form nothing is listed below `low`. -/
theorem lookup_below {size : Nat} : ∀ {low a : Nat} {cells : List Host.Cell}, cellsWf size low cells = true → a < low →
    cells.lookup a = none
  | _, _, [], _, _ => rfl
  | low, a, (a', b) :: rest, h, ha => by
    obtain ⟨h1, -, -, h4⟩ := cellsWf_cons.mp h
    have hne : (a == a') = false := by simp; omega
    rw [List.lookup_cons, hne]
    exact lookup_below h4 (by omega)

/-- In canonical form nothing is listed from `size` on. -/
theorem lookup_beyond {size : Nat} : ∀ {low a : Nat} {cells : List Host.Cell}, cellsWf size low cells = true → size ≤ a →
    cells.lookup a = none
  | _, _, [], _, _ => rfl
  | low, a, (a', b) :: rest, h, ha => by
    obtain ⟨-, h2, -, h4⟩ := cellsWf_cons.mp h
    have hne : (a == a') = false := by simp; omega
    rw [List.lookup_cons, hne]
    exact lookup_beyond h4 ha

theorem lookup_cell_head {a : Nat} {b : Byte} {rest : List Host.Cell} : List.lookup a ((a, b) :: rest) = some b := by
  simp

theorem lookup_cell_tail {a a' : Nat} {b : Byte} {rest : List Host.Cell} (h : a ≠ a') :
    List.lookup a ((a', b) :: rest) = rest.lookup a := by
  have hne : (a == a') = false := by simpa using h
  rw [List.lookup_cons, hne]

theorem cellsFrom_wf : ∀ (at0 : Nat) (bytes : List Byte) (size : Nat), at0 + bytes.length ≤ size →
    cellsWf size at0 (cellsFrom at0 bytes) = true
  | _, [], _, _ => rfl
  | at0, b :: rest, size, h => by
    simp only [List.length_cons] at h
    have ih := cellsFrom_wf (at0 + 1) rest size (by omega)
    unfold cellsFrom
    split
    · exact cellsWf_mono (by omega) ih
    · exact cellsWf_cons.mpr ⟨le_refl _, by omega, ‹_›, ih⟩

theorem lookup_cellsFrom : ∀ (at0 : Nat) (bytes : List Byte) (k : Nat),
    ((cellsFrom at0 bytes).lookup (at0 + k)).getD 0 = bytes.getD k 0
  | _, [], _ => by simp [cellsFrom]
  | at0, b :: rest, 0 => by
    unfold cellsFrom
    split
    · rename_i hb
      have hw := cellsFrom_wf (at0 + 1) rest (at0 + 1 + rest.length) (le_refl _)
      rw [Nat.add_zero, lookup_below hw (by omega), hb]; rfl
    · rw [Nat.add_zero, lookup_cell_head]; rfl
  | at0, b :: rest, k + 1 => by
    have ih := lookup_cellsFrom (at0 + 1) rest k
    have he : at0 + (k + 1) = at0 + 1 + k := by omega
    unfold cellsFrom
    split
    · rw [he, ih]; rfl
    · rw [he, lookup_cell_tail (by omega), ih]; rfl

/-- Every way to make a buffer keeps the canonical form. -/
theorem Memory.ofBytes_wf (bytes : List Byte) : (Memory.ofBytes bytes).wf = true :=
  cellsFrom_wf 0 bytes bytes.length (by omega)

theorem Memory.zeros_wf (n : Nat) : (Memory.zeros n).wf = true := rfl

@[simp] theorem Memory.ofBytes_size (bytes : List Byte) : (Memory.ofBytes bytes).size = bytes.length := rfl
@[simp] theorem Memory.zeros_size (n : Nat) : (Memory.zeros n).size = n := rfl
@[simp] theorem Memory.zeros_byte (n a : Nat) : (Memory.zeros n).byte a = 0 := rfl

/-- Offset k of a buffer holds byte k of the sequence it was made from (00_scope.md R12). -/
theorem Memory.ofBytes_byte (bytes : List Byte) (k : Nat) : (Memory.ofBytes bytes).byte k = bytes.getD k 0 := by
  have h := lookup_cellsFrom 0 bytes k
  rw [Nat.zero_add] at h
  exact h

theorem Memory.byte_beyond {m : Memory} (h : m.wf = true) {a : Nat} (ha : m.size ≤ a) : m.byte a = 0 := by
  simp [Memory.byte, lookup_beyond h ha]

/-- Cells in canonical form that read alike everywhere are the same cells. -/
theorem cells_ext {size : Nat} : ∀ {low : Nat} {c c' : List Host.Cell}, cellsWf size low c = true →
    cellsWf size low c' = true → (∀ a, (c.lookup a).getD 0 = (c'.lookup a).getD 0) → c = c'
  | _, [], [], _, _, _ => rfl
  | _, [], (a, b) :: r, _, h', e => by
    have hb := (cellsWf_cons.mp h').2.2.1
    have := e a
    rw [lookup_cell_head] at this
    exact absurd this.symm hb
  | _, (a, b) :: r, [], h, _, e => by
    have hb := (cellsWf_cons.mp h).2.2.1
    have := e a
    rw [lookup_cell_head] at this
    exact absurd this hb
  | low, (a, b) :: r, (a', b') :: r', h, h', e => by
    obtain ⟨-, h2, h3, h4⟩ := cellsWf_cons.mp h
    obtain ⟨-, g2, g3, g4⟩ := cellsWf_cons.mp h'
    have haa : a = a' := by
      rcases Nat.lt_trichotomy a a' with hlt | heq | hgt
      · have := e a
        rw [lookup_cell_head, lookup_cell_tail (by omega), lookup_below g4 (by omega)] at this
        exact absurd this h3
      · exact heq
      · have := e a'
        rw [lookup_cell_head, lookup_cell_tail (by omega), lookup_below h4 (by omega)] at this
        exact absurd this.symm g3
    subst haa
    have hbb : b = b' := by
      have := e a
      rw [lookup_cell_head, lookup_cell_head] at this
      exact this
    subst hbb
    have : r = r' := cells_ext h4 g4 fun x => by
      by_cases hx : x = a
      · subst hx
        rw [lookup_below h4 (by omega), lookup_below g4 (by omega)]
      · have := e x
        rwa [lookup_cell_tail hx, lookup_cell_tail hx] at this
    rw [this]

end Sys2Proof.Machine
end

