-- ==== Sys2Proof/Laws/Operands.lean ====
section
/-! SUPPORT. Each typed window of a buffer as the value its layout gives (20_memory.md R52 to R54). -/
namespace Sys2Proof.Machine

theorem be16_two (a b : Byte) : be16 [a, b] = a ++ b := by
  apply BitVec.eq_of_toNat_eq
  have hb := b.isLt
  simp only [be16, bigEndian, List.foldl, BitVec.toNat_ofNat, BitVec.toNat_append]
  rw [← Nat.shiftLeft_add_eq_or_of_lt (by simpa using hb), Nat.shiftLeft_eq]
  have := a.isLt
  omega

theorem be32_four (a b c d : Byte) : be32 [a, b, c, d] = a ++ b ++ c ++ d := by
  apply BitVec.eq_of_toNat_eq
  have ha := a.isLt
  have hb := b.isLt
  have hc := c.isLt
  have hd := d.isLt
  simp only [be32, bigEndian, List.foldl, BitVec.toNat_ofNat, BitVec.toNat_append]
  rw [← Nat.shiftLeft_add_eq_or_of_lt (by simpa using hd), ← Nat.shiftLeft_add_eq_or_of_lt (by simpa using hc),
    ← Nat.shiftLeft_add_eq_or_of_lt (by simpa using hb)]
  simp only [Nat.shiftLeft_eq]
  omega

theorem Memory.read16_inside (m : Memory) {o : Nat} (h : o + 2 ≤ m.size) : m.read16 o = some (m.halfView o) := by
  simp [Memory.read16, Config.u16Bytes, m.read_inside h, List.range_succ, be16_two, Memory.halfView]

theorem Memory.read32_inside (m : Memory) {o : Nat} (h : o + 4 ≤ m.size) : m.read32 o = some (m.wordView o) := by
  simp [Memory.read32, Config.floatBytes, m.read_inside h, List.range_succ, be32_four, Memory.wordView]

theorem Memory.vertexAt_inside (m : Memory) {o : Nat} (h : o + 12 ≤ m.size) : m.vertexAt o = some (m.vertexView o) := by
  simp [Memory.vertexAt, m.read32_inside (show o + 4 ≤ m.size by omega),
    m.read32_inside (show o + 4 + 4 ≤ m.size by omega), m.read32_inside (show o + 8 + 4 ≤ m.size by omega),
    Memory.vertexView]

theorem Memory.triangleAt_inside (m : Memory) {o : Nat} (h : o + 50 ≤ m.size) :
    m.triangleAt o = some (m.triangleView o) := by
  simp [Memory.triangleAt, m.vertexAt_inside (show o + 12 ≤ m.size by omega),
    m.vertexAt_inside (show o + 12 + 12 ≤ m.size by omega), m.vertexAt_inside (show o + 24 + 12 ≤ m.size by omega),
    m.vertexAt_inside (show o + 36 + 12 ≤ m.size by omega), m.read16_inside (show o + 48 + 2 ≤ m.size by omega),
    Memory.triangleView]

/-- Every window that lies inside the buffer is decoded, in order (43_file_decoder.md R155). -/
theorem Memory.triangles_inside (m : Memory) : ∀ {n : Nat}, 84 + 50 * n ≤ m.size →
    m.triangles n = some ((List.range n).map fun k => m.triangleView (windowOffset k))
  | 0, _ => rfl
  | n + 1, h => by
    have ih := m.triangles_inside (n := n) (by omega)
    have ht : m.triangleAt (windowOffset n) = some (m.triangleView (windowOffset n)) :=
      m.triangleAt_inside (by simp only [windowOffset, Config.minFileBytes, Config.triBytes]; omega)
    simp [Memory.triangles, ih, ht, List.range_succ]

theorem Memory.triangles_length {m : Memory} : ∀ {n : Nat} {ts : List Triangle}, m.triangles n = some ts → ts.length = n
  | 0, ts, h => by
    simp only [Memory.triangles, Option.some.injEq] at h
    simp [← h]
  | n + 1, ts, h => by
    simp only [Memory.triangles] at h
    split at h
    · rename_i ts' t h1 _
      simp only [Option.some.injEq] at h
      simp [← h, Memory.triangles_length h1]
    · cases h

/-! ## Views depend on the bytes of their window alone -/

theorem Memory.wordView_congr {m m' : Memory} {o o' : Nat} (h : ∀ k, k < 4 → m.byte (o + k) = m'.byte (o' + k)) :
    m.wordView o = m'.wordView o' := by
  have h0 := h 0 (by omega)
  rw [Nat.add_zero, Nat.add_zero] at h0
  simp only [Memory.wordView, h0, h 1 (by omega), h 2 (by omega), h 3 (by omega)]

theorem Memory.halfView_congr {m m' : Memory} {o o' : Nat} (h : ∀ k, k < 2 → m.byte (o + k) = m'.byte (o' + k)) :
    m.halfView o = m'.halfView o' := by
  have h0 := h 0 (by omega)
  rw [Nat.add_zero, Nat.add_zero] at h0
  simp only [Memory.halfView, h0, h 1 (by omega)]

theorem Memory.vertexView_congr {m m' : Memory} {o o' : Nat} (h : ∀ k, k < 12 → m.byte (o + k) = m'.byte (o' + k)) :
    m.vertexView o = m'.vertexView o' := by
  have w : ∀ j, j ≤ 8 → m.wordView (o + j) = m'.wordView (o' + j) := fun j hj =>
    Memory.wordView_congr fun k hk => by
      rw [Nat.add_assoc, Nat.add_assoc]
      exact h _ (by omega)
  have w0 := w 0 (by omega)
  rw [Nat.add_zero, Nat.add_zero] at w0
  simp only [Memory.vertexView, w0, w 4 (by omega), w 8 (by omega)]

theorem Memory.triangleView_congr {m m' : Memory} {o o' : Nat} (h : ∀ k, k < 50 → m.byte (o + k) = m'.byte (o' + k)) :
    m.triangleView o = m'.triangleView o' := by
  have v : ∀ j, j ≤ 38 → m.vertexView (o + j) = m'.vertexView (o' + j) := fun j hj =>
    Memory.vertexView_congr fun k hk => by
      rw [Nat.add_assoc, Nat.add_assoc]
      exact h _ (by omega)
  have v0 := v 0 (by omega)
  rw [Nat.add_zero, Nat.add_zero] at v0
  have hh : m.halfView (o + 48) = m'.halfView (o' + 48) := Memory.halfView_congr fun k hk => by
    rw [Nat.add_assoc, Nat.add_assoc]
    exact h _ (by omega)
  simp only [Memory.triangleView, v0, v 12 (by omega), v 24 (by omega), v 36 (by omega), hh]

end Sys2Proof.Machine
end

