-- ==== Sys2Proof/Laws/State.lean ====
section
/-! SUPPORT. One lemma per field and state update, so that no proof unfolds a record update. -/
namespace Sys2Proof.Machine

@[simp] theorem State.latch_maxLen (s : State) (r : Request) (rest : List Request) :
    (s.latch r rest).maxLen = s.maxLen := rfl
@[simp] theorem State.latch_requests (s : State) (r : Request) (rest : List Request) :
    (s.latch r rest).requests = rest := rfl
@[simp] theorem State.latch_txn (s : State) (r : Request) (rest : List Request) :
    (s.latch r rest).txn = some (Transaction.start r) := rfl
@[simp] theorem State.latch_responses (s : State) (r : Request) (rest : List Request) :
    (s.latch r rest).responses = s.responses := rfl

@[simp] theorem State.respond_maxLen (s : State) (r : Response) :
    (s.respond r).maxLen = s.maxLen := rfl
@[simp] theorem State.respond_requests (s : State) (r : Response) : (s.respond r).requests = s.requests := rfl
@[simp] theorem State.respond_txn (s : State) (r : Response) : (s.respond r).txn = none := rfl
@[simp] theorem State.respond_responses (s : State) (r : Response) :
    (s.respond r).responses = s.responses ++ [r] := rfl

@[simp] theorem State.raise_maxLen (s : State) (k : ErrorKind) :
    (s.raise k).maxLen = s.maxLen := rfl
@[simp] theorem State.raise_requests (s : State) (k : ErrorKind) : (s.raise k).requests = s.requests := rfl
@[simp] theorem State.raise_txn (s : State) (k : ErrorKind) : (s.raise k).txn = none := rfl
@[simp] theorem State.raise_responses (s : State) (k : ErrorKind) :
    (s.raise k).responses = s.responses ++ [Response.error k] := rfl

@[simp] theorem State.toPhase_maxLen (s : State) (t : Transaction) (p : Phase) :
    (s.toPhase t p).maxLen = s.maxLen := rfl
@[simp] theorem State.toPhase_requests (s : State) (t : Transaction) (p : Phase) :
    (s.toPhase t p).requests = s.requests := rfl
@[simp] theorem State.toPhase_txn (s : State) (t : Transaction) (p : Phase) :
    (s.toPhase t p).txn = some { t with phase := p } := rfl
@[simp] theorem State.toPhase_responses (s : State) (t : Transaction) (p : Phase) :
    (s.toPhase t p).responses = s.responses := rfl

@[simp] theorem State.issue_maxLen (s : State) (r : Request) :
    (s.issue r).maxLen = s.maxLen := rfl
@[simp] theorem State.issue_requests (s : State) (r : Request) : (s.issue r).requests = s.requests ++ [r] := rfl
@[simp] theorem State.issue_txn (s : State) (r : Request) : (s.issue r).txn = s.txn := rfl
@[simp] theorem State.issue_responses (s : State) (r : Request) : (s.issue r).responses = s.responses := rfl

@[simp] theorem State.placeNext_maxLen (s : State) (r : Request) :
    (s.placeNext r).maxLen = s.maxLen := rfl
@[simp] theorem State.placeNext_requests (s : State) (r : Request) : (s.placeNext r).requests = r :: s.requests := rfl
@[simp] theorem State.placeNext_txn (s : State) (r : Request) : (s.placeNext r).txn = none := rfl
@[simp] theorem State.placeNext_responses (s : State) (r : Request) : (s.placeNext r).responses = s.responses := rfl

@[simp] theorem State.fresh_maxLen (maxLen : Length) : (State.fresh maxLen).maxLen = maxLen := rfl
@[simp] theorem State.fresh_requests (maxLen : Length) : (State.fresh maxLen).requests = [] := rfl
@[simp] theorem State.fresh_txn (maxLen : Length) : (State.fresh maxLen).txn = none := rfl
@[simp] theorem State.fresh_responses (maxLen : Length) : (State.fresh maxLen).responses = [] := rfl

@[simp] theorem Transaction.start_request (r : Request) : (Transaction.start r).request = r := rfl
@[simp] theorem Transaction.start_phase (r : Request) : (Transaction.start r).phase = .checkLen := rfl

@[simp] theorem Response.ok_status (v : Result) : (Response.ok v).status = .ok := rfl
@[simp] theorem Response.ok_result (v : Result) : (Response.ok v).result = some v := rfl
@[simp] theorem Response.error_status (k : ErrorKind) : (Response.error k).status = .error k := rfl
@[simp] theorem Response.error_result (k : ErrorKind) : (Response.error k).result = none := rfl

/-- Responding to a transaction just latched leaves what responding from idle would, with one request fewer waiting. -/
theorem State.latch_respond (s : State) (r : Request) (rest : List Request) (a : Response) :
    (s.latch r rest).respond a =
      { maxLen := s.maxLen, requests := rest, txn := none, responses := s.responses ++ [a] } := rfl

end Sys2Proof.Machine
end

