-- ==== Sys2Proof/Laws/Ops.lean ====
section
/-! SUPPORT. What each shared operation can do, said once. -/
namespace Sys2Proof.Machine

/-! ## The prologue -/

theorem prologueB_noSource (maxLen : Length) (len : Nat) (data : Memory) :
    prologueB maxLen false len data = .raise .sourceFailure := rfl

theorem prologueB_proceed_iff {maxLen : Length} {srcOk : Bool} {len : Nat} {data : Memory} :
    prologueB maxLen srcOk len data = .proceed ↔ srcOk = true ∧ len ≤ maxLen.val ∧ data.size = len := by
  cases srcOk
  · simp [prologueB]
  · by_cases hf : maxLen.val < len
    · simp [prologueB, hf, show ¬len ≤ maxLen.val by omega]
    · by_cases hd : data.size = len <;> simp [prologueB, hf, hd, show len ≤ maxLen.val by omega]

theorem prologueB_ok {maxLen : Length} {len : Nat} {data : Memory} (h : len ≤ maxLen.val) (hs : data.size = len) :
    prologueB maxLen true len data = .proceed := prologueB_proceed_iff.mpr ⟨rfl, h, hs⟩

theorem prologueB_tooLong {maxLen : Length} {len : Nat} {data : Memory} (h : maxLen.val < len) :
    prologueB maxLen true len data = .refuse .lenAboveMax := by simp [prologueB, h]

theorem prologueB_mismatch {maxLen : Length} {len : Nat} {data : Memory} (h : len ≤ maxLen.val) (hs : data.size ≠ len) :
    prologueB maxLen true len data = .refuse .bufferNotLen := by simp [prologueB, show ¬maxLen.val < len by omega, hs]

theorem prologueB_raise {maxLen : Length} {srcOk : Bool} {len : Nat} {data : Memory} {k : ErrorKind}
    (h : prologueB maxLen srcOk len data = .raise k) : srcOk = false ∧ k = .sourceFailure := by
  unfold prologueB at h
  split at h
  · rename_i hs
    cases h
    simpa using hs
  · split at h
    · cases h
    · split at h <;> cases h

theorem prologueB_refuse {maxLen : Length} {srcOk : Bool} {len : Nat} {data : Memory} {x : Refusal}
    (h : prologueB maxLen srcOk len data = .refuse x) : srcOk = true ∧
      (maxLen.val < len ∧ x = .lenAboveMax ∨ len ≤ maxLen.val ∧ data.size ≠ len ∧ x = .bufferNotLen) := by
  cases srcOk
  · cases h
  · refine ⟨rfl, ?_⟩
    by_cases hf : maxLen.val < len
    · rw [prologueB_tooLong hf] at h; cases h; exact .inl ⟨hf, rfl⟩
    · have hf' : len ≤ maxLen.val := by omega
      by_cases hd : data.size = len
      · rw [prologueB_ok hf' hd] at h; cases h
      · rw [prologueB_mismatch hf' hd] at h; cases h; exact .inr ⟨hf', hd, rfl⟩

/-! ## Serving an operation -/

theorem serveB_noSource {s : State} {t : Transaction} (ht : s.txn = some t) (len : Nat) (op : Memory → Option Response) :
    serveB false len op s = .next (s.raise .sourceFailure) := by simp [serveB, ht, prologueB_noSource]

theorem serveB_proceed {s : State} {t : Transaction} {len : Nat} (ht : s.txn = some t) (hf : len ≤ s.maxLen.val)
    (hs : t.request.data.size = len) (op : Memory → Option Response) :
    serveB true len op s = s.answer (op t.request.data) := by simp [serveB, ht, prologueB_ok hf hs]

theorem serveB_tooLong {s : State} {t : Transaction} {len : Nat} (ht : s.txn = some t) (hf : s.maxLen.val < len)
    (op : Memory → Option Response) : serveB true len op s = .refused .lenAboveMax := by
  simp [serveB, ht, prologueB_tooLong hf]

theorem serveB_mismatch {s : State} {t : Transaction} {len : Nat} (ht : s.txn = some t) (hf : len ≤ s.maxLen.val)
    (hs : t.request.data.size ≠ len) (op : Memory → Option Response) :
    serveB true len op s = .refused .bufferNotLen := by
  simp [serveB, ht, prologueB_mismatch hf hs]

theorem serveW_next {s : State} {t : Transaction} (ht : s.txn = some t) (r : Response) :
    serveW r s = .next (s.respond r) := by simp [serveW, ht]

/-- Everything a format B operation can do: raise SourceFailure, be refused, respond with what `op` answers, or fault. -/
theorem serveB_cases (srcOk : Bool) (len : Nat) (op : Memory → Option Response) (s : State) :
    (s.txn = none ∧ serveB srcOk len op s = .refused .noTransaction) ∨
    ∃ t, s.txn = some t ∧
      ((srcOk = false ∧ serveB srcOk len op s = .next (s.raise .sourceFailure)) ∨
       (srcOk = true ∧ s.maxLen.val < len ∧ serveB srcOk len op s = .refused .lenAboveMax) ∨
       (srcOk = true ∧ len ≤ s.maxLen.val ∧ t.request.data.size ≠ len ∧
          serveB srcOk len op s = .refused .bufferNotLen) ∨
       (srcOk = true ∧ len ≤ s.maxLen.val ∧ t.request.data.size = len ∧
          serveB srcOk len op s = s.answer (op t.request.data))) := by
  cases ht : s.txn with
  | none => exact .inl ⟨rfl, by simp [serveB, ht]⟩
  | some t =>
    refine .inr ⟨t, rfl, ?_⟩
    cases srcOk with
    | false => exact .inl ⟨rfl, serveB_noSource ht len op⟩
    | true =>
      refine .inr ?_
      by_cases hf : s.maxLen.val < len
      · exact .inl ⟨rfl, hf, serveB_tooLong ht hf op⟩
      · have hf' : len ≤ s.maxLen.val := by omega
        refine .inr ?_
        by_cases hs : t.request.data.size = len
        · exact .inr ⟨rfl, hf', hs, serveB_proceed ht hf' hs op⟩
        · exact .inl ⟨rfl, hf', hs, serveB_mismatch ht hf' hs op⟩

/-- If a format B operation answers a next state, it has issued one response: SourceFailure, or what `op` answered. -/
theorem serveB_next {srcOk : Bool} {len : Nat} {op : Memory → Option Response} {s s' : State}
    (h : serveB srcOk len op s = .next s') :
    ∃ t r, s.txn = some t ∧ s' = s.respond r ∧
      ((srcOk = false ∧ r = Response.error .sourceFailure) ∨
       (srcOk = true ∧ len ≤ s.maxLen.val ∧ t.request.data.size = len ∧ op t.request.data = some r)) := by
  obtain ⟨_, e⟩ | ⟨t, ht, ⟨ho, e⟩ | ⟨_, _, e⟩ | ⟨_, _, _, e⟩ | ⟨ho, hf, hs, e⟩⟩ := serveB_cases srcOk len op s
  · rw [e] at h; cases h
  · rw [e] at h; cases h
    exact ⟨t, _, ht, rfl, .inl ⟨ho, rfl⟩⟩
  · rw [e] at h; cases h
  · rw [e] at h; cases h
  · rw [e] at h
    cases hop : op t.request.data with
    | none => rw [hop] at h; cases h
    | some r =>
      rw [hop] at h; cases h
      exact ⟨t, r, ht, rfl, .inr ⟨ho, hf, hs, hop⟩⟩

theorem serveW_cases {s s' : State} {r : Response} (h : serveW r s = .next s') :
    ∃ t, s.txn = some t ∧ s' = s.respond r := by
  unfold serveW at h
  split at h
  · cases h
  · rename_i t ht
    cases h
    exact ⟨t, ht, rfl⟩

end Sys2Proof.Machine
end

