-- ==== Sys2Proof/Laws/Operations.lean ====
section
/-! SUPPORT. What each operation answers on a buffer of its declared length: the error its length check gives, or the
result its layout gives. No answer is missing, since every read lies inside the buffer (20_memory.md R47). -/
namespace Sys2Proof.Machine

theorem opB2f32_wrong {len : Nat} (m : Memory) (h : len ≠ 4) : opB2f32 len m = some (Response.error .operandLength) :=
  if_pos h
theorem opB2f32_exact (m : Memory) (h : m.size = 4) :
    opB2f32 4 m = some (Response.ok (.float32 (m.wordView 0))) := by
  simp [opB2f32, Config.floatBytes, m.read32_inside (o := 0) (by omega)]

theorem opB2u16_wrong {len : Nat} (m : Memory) (h : len ≠ 2) : opB2u16 len m = some (Response.error .operandLength) :=
  if_pos h
theorem opB2u16_exact (m : Memory) (h : m.size = 2) :
    opB2u16 2 m = some (Response.ok (.uint16 (m.halfView 0))) := by
  simp [opB2u16, Config.u16Bytes, m.read16_inside (o := 0) (by omega)]

theorem opB2u32_wrong {len : Nat} (m : Memory) (h : len ≠ 4) : opB2u32 len m = some (Response.error .operandLength) :=
  if_pos h
theorem opB2u32_exact (m : Memory) (h : m.size = 4) :
    opB2u32 4 m = some (Response.ok (.uint32 (m.wordView 0))) := by
  simp [opB2u32, Config.u32Bytes, m.read32_inside (o := 0) (by omega)]

theorem opB2asc_exact (m : Memory) {len : Nat} (h : m.size = len) :
    opB2asc len m = some (Response.ok (.text ((List.range len).map m.byte))) := by
  simp [opB2asc, m.readText_inside (a := 0) (n := len) (by omega)]

theorem opVtx_wrong {len : Nat} (m : Memory) (h : len ≠ 12) : opVtx len m = some (Response.error .operandLength) :=
  if_pos h
theorem opVtx_exact (m : Memory) (h : m.size = 12) :
    opVtx 12 m = some (Response.ok (.vertex (m.vertexView 0))) := by
  simp [opVtx, Config.vertexBytes, m.vertexAt_inside (o := 0) (by omega)]

theorem opTri_wrong {len : Nat} (m : Memory) (h : len ≠ 50) : opTri len m = some (Response.error .recordLength) :=
  if_pos h
theorem opTri_exact (m : Memory) (h : m.size = 50) :
    opTri 50 m = some (Response.ok (.triangle (m.triangleView 0))) := by
  simp [opTri, Config.triBytes, m.triangleAt_inside (o := 0) (by omega)]

theorem opDec_short {len : Nat} (m : Memory) (h : len < 84) : opDec len m = some (Response.error .truncatedInput) :=
  if_pos h

theorem aligned_remainingLen (len : Nat) : aligned (remainingLen len) = decide ((len - 84) % 50 = 0) := rfl

theorem opDec_misaligned {len : Nat} (m : Memory) (hs : m.size = len) (h : 84 ≤ len) (hr : (len - 84) % 50 ≠ 0) :
    opDec len m = some (Response.error .misalignedTrailingData) := by
  have h0 : ¬len < Config.minFileBytes := by simp only [Config.minFileBytes]; omega
  have ht := m.readText_inside (a := 0) (n := Config.headerBytes) (by simp only [Config.headerBytes]; omega)
  have ha : aligned (remainingLen len) = false := by rw [aligned_remainingLen, decide_eq_false hr]
  simp [opDec, h0, ht, ha]

/-- The Mesh a whole file gives, by address (43_file_decoder.md R152, R155, R156). -/
theorem opDec_exact {len : Nat} (m : Memory) (hs : m.size = len) (h : 84 ≤ len) (hr : (len - 84) % 50 = 0) :
    opDec len m = some (Response.ok (.mesh
      { header := (List.range 80).map m.byte, count := BitVec.ofNat 32 ((len - 84) / 50),
        triangles := (List.range ((len - 84) / 50)).map fun k => m.triangleView (84 + 50 * k) })) := by
  have h0 : ¬len < Config.minFileBytes := by simp only [Config.minFileBytes]; omega
  have ht := m.readText_inside (a := 0) (n := Config.headerBytes) (by simp only [Config.headerBytes]; omega)
  have ha : aligned (remainingLen len) = true := by rw [aligned_remainingLen, decide_eq_true hr]
  have hw : windowCount (remainingLen len) = (len - 84) / 50 := rfl
  have hts := m.triangles_inside (n := (len - 84) / 50) (by omega)
  simp only [Nat.zero_add] at ht
  simp only [opDec, h0, ht, ha, hw, hts, meshOf]
  rfl

end Sys2Proof.Machine
end

