-- ==== Sys2Proof/Laws/PerInstr.lean ====
section
/-! SUPPORT. Per-instruction families of LAWS.json. EncodeFields: the header an operation is encoded as has exactly the
operation's code, `src_ok` and `arg` in their fields and 0 in the reserved one (30_encoding.md R70). -/
namespace Sys2Proof.Laws.EncodeFields

def Statement (i : Instr) : Prop :=
  fieldOp (encode i) = i.op ∧ fieldSrcOk (encode i) = i.srcOk ∧ fieldRsv (encode i) = 0 ∧ fieldArg (encode i) = i.arg

theorem all (i : Instr) : Statement i := by
  rw [Statement, encode_eq_packHeader]
  exact ⟨fieldOp_packHeader _ _ _, fieldSrcOk_packHeader _ _ _, fieldRsv_packHeader _ _ _, fieldArg_packHeader _ _ _⟩

theorem b2f32 (srcOk : Bool) (len : Nat) : Statement (.b2f32 srcOk len) := all _
theorem b2u16 (srcOk : Bool) (len : Nat) : Statement (.b2u16 srcOk len) := all _
theorem b2u32 (srcOk : Bool) (len : Nat) : Statement (.b2u32 srcOk len) := all _
theorem f322b (srcOk : Bool) (word : Word32) : Statement (.f322b srcOk word) := all _
theorem b2asc (srcOk : Bool) (len : Nat) : Statement (.b2asc srcOk len) := all _
theorem vtx (srcOk : Bool) (len : Nat) : Statement (.vtx srcOk len) := all _
theorem tri (srcOk : Bool) (len : Nat) : Statement (.tri srcOk len) := all _
theorem dec (srcOk : Bool) (len : Nat) : Statement (.dec srcOk len) := all _

end Sys2Proof.Laws.EncodeFields
end

