-- ==== Sys2Proof/Laws/Step.lean ====
section
/-! SUPPORT. What `exec` and `step` can do, said once. -/
namespace Sys2Proof.Machine

/-- What an operation answers on its buffer once its prologue lets it proceed. -/
def opOf : Instr → Memory → Option Response
  | .b2f32 _ len => opB2f32 len
  | .b2u16 _ len => opB2u16 len
  | .b2u32 _ len => opB2u32 len
  | .f322b _ word => fun _ => some (Response.ok (.bytes (bytes32 word)))
  | .b2asc _ len => opB2asc len
  | .vtx _ len => opVtx len
  | .tri _ len => opTri len
  | .dec _ len => opDec len

/-- F322B alone is format W (30_encoding.md R71). -/
def isFormatW : Instr → Bool
  | .f322b _ _ => true
  | _ => false

theorem exec_formatB {i : Instr} (h : isFormatW i = false) (s : State) :
    exec i s = serveB i.srcOk i.operandLen (opOf i) s := by
  cases i <;> first | rfl | cases h

theorem exec_formatW {i : Instr} (h : isFormatW i = true) (s : State) :
    ∃ w, exec i s = serveW (Response.ok (.bytes (bytes32 w))) s ∧
      opOf i = fun _ => some (Response.ok (.bytes (bytes32 w))) := by
  cases i <;> first | exact ⟨_, rfl, rfl⟩ | cases h

/-- Inside a buffer of the declared length every operation has an answer: a legal result, or its own length error. -/
theorem opOf_total {i : Instr} {m : Memory} (h : isFormatW i = true ∨ m.size = i.operandLen) :
    ∃ r, opOf i m = some r := by
  cases i with
  | f322b => exact ⟨_, rfl⟩
  | b2f32 _ len =>
    have hm : m.size = len := by simpa [isFormatW, Instr.operandLen] using h
    by_cases hl : len = 4
    · subst hl; exact ⟨_, opB2f32_exact m hm⟩
    · exact ⟨_, opB2f32_wrong m hl⟩
  | b2u16 _ len =>
    have hm : m.size = len := by simpa [isFormatW, Instr.operandLen] using h
    by_cases hl : len = 2
    · subst hl; exact ⟨_, opB2u16_exact m hm⟩
    · exact ⟨_, opB2u16_wrong m hl⟩
  | b2u32 _ len =>
    have hm : m.size = len := by simpa [isFormatW, Instr.operandLen] using h
    by_cases hl : len = 4
    · subst hl; exact ⟨_, opB2u32_exact m hm⟩
    · exact ⟨_, opB2u32_wrong m hl⟩
  | b2asc _ len =>
    have hm : m.size = len := by simpa [isFormatW, Instr.operandLen] using h
    exact ⟨_, opB2asc_exact m hm⟩
  | vtx _ len =>
    have hm : m.size = len := by simpa [isFormatW, Instr.operandLen] using h
    by_cases hl : len = 12
    · subst hl; exact ⟨_, opVtx_exact m hm⟩
    · exact ⟨_, opVtx_wrong m hl⟩
  | tri _ len =>
    have hm : m.size = len := by simpa [isFormatW, Instr.operandLen] using h
    by_cases hl : len = 50
    · subst hl; exact ⟨_, opTri_exact m hm⟩
    · exact ⟨_, opTri_wrong m hl⟩
  | dec _ len =>
    have hm : m.size = len := by simpa [isFormatW, Instr.operandLen] using h
    by_cases hl : len < 84
    · exact ⟨_, opDec_short m hl⟩
    · by_cases hr : (len - 84) % 50 = 0
      · exact ⟨_, opDec_exact m hm (by omega) hr⟩
      · exact ⟨_, opDec_misaligned m hm (by omega) hr⟩

/-- If an operation answers a next state, it has issued exactly one response: SourceFailure on `src_ok = 0` of format B,
or what the operation answers. -/
theorem exec_next {i : Instr} {s s' : State} (h : exec i s = .next s') :
    ∃ t r, s.txn = some t ∧ s' = s.respond r ∧
      ((isFormatW i = false ∧ i.srcOk = false ∧ r = Response.error .sourceFailure) ∨
       (isFormatW i = false ∧ i.srcOk = true ∧ i.operandLen ≤ s.maxLen.val ∧
          t.request.data.size = i.operandLen ∧ opOf i t.request.data = some r) ∨
       (isFormatW i = true ∧ opOf i t.request.data = some r)) := by
  cases hw : isFormatW i with
  | false =>
    rw [exec_formatB hw] at h
    obtain ⟨t, r, ht, hr, ⟨ho, e⟩ | ⟨ho, hf, hs, e⟩⟩ := serveB_next h
    · exact ⟨t, r, ht, hr, .inl ⟨rfl, ho, e⟩⟩
    · exact ⟨t, r, ht, hr, .inr (.inl ⟨rfl, ho, hf, hs, e⟩)⟩
  | true =>
    obtain ⟨w, e, eo⟩ := exec_formatW hw s
    rw [e] at h
    obtain ⟨t, ht, hr⟩ := serveW_cases h
    exact ⟨t, _, ht, hr, .inr (.inr ⟨rfl, by rw [eo]⟩)⟩

/-! ## The step -/

theorem fetch_idle {s : State} {r : Request} {rest : List Request} (h : s.txn = none) (hr : s.requests = r :: rest) :
    fetch s = some (r, s.latch r rest) := by simp [fetch, h, hr]

theorem fetch_none {s : State} (h : s.txn = none) (hr : s.requests = []) : fetch s = none := by simp [fetch, h, hr]

theorem fetch_busy {s : State} {t : Transaction} (h : s.txn = some t) : fetch s = some (t.request, s) := by
  simp [fetch, h]

/-- Everything a fetch can find; in each case the fetched request is the latched one. -/
theorem fetch_cases (s : State) :
    (s.txn = none ∧ s.requests = [] ∧ fetch s = none) ∨
    (∃ r rest, s.txn = none ∧ s.requests = r :: rest ∧ fetch s = some (r, s.latch r rest)) ∨
    (∃ t, s.txn = some t ∧ fetch s = some (t.request, s)) := by
  cases ht : s.txn with
  | some t => exact .inr (.inr ⟨t, rfl, fetch_busy ht⟩)
  | none =>
    cases hr : s.requests with
    | nil => exact .inl ⟨rfl, rfl, fetch_none ht hr⟩
    | cons r rest => exact .inr (.inl ⟨r, rest, rfl, rfl, fetch_idle ht hr⟩)

theorem fetch_latched {s s1 : State} {r : Request} (h : fetch s = some (r, s1)) :
    ∃ t, s1.txn = some t ∧ t.request = r := by
  obtain ⟨_, _, e⟩ | ⟨r', rest, _, _, e⟩ | ⟨t, ht, e⟩ := fetch_cases s
  · rw [e] at h; cases h
  · rw [e] at h; cases h; exact ⟨_, rfl, rfl⟩
  · rw [e] at h; cases h; exact ⟨t, ht, rfl⟩

theorem step_unfetched {s : State} (h : fetch s = none) : step s = .next s := by simp [step, h]

theorem step_decoded {s s1 : State} {r : Request} {i : Instr} (h : fetch s = some (r, s1))
    (hd : decode r.header = .ok i) : step s = exec i s1 := by simp [step, h, hd]

theorem step_illegal {s s1 : State} {r : Request} {e : DecodeReject} (h : fetch s = some (r, s1))
    (hd : decode r.header = .error e) : step s = .next (s1.raise .illegalOp) := by simp [step, h, hd, takeIllegal]

/-- A step keeps the state of an idle unit with nothing waiting, or issues exactly one response for the request it
fetched. -/
theorem step_next {s s' : State} (h : step s = .next s') :
    (fetch s = none ∧ s' = s) ∨
    (∃ r s1 e, fetch s = some (r, s1) ∧ decode r.header = .error e ∧ s' = s1.raise .illegalOp) ∨
    (∃ r s1 i, fetch s = some (r, s1) ∧ decode r.header = .ok i ∧ exec i s1 = .next s') := by
  cases hf : fetch s with
  | none =>
    rw [step_unfetched hf] at h
    cases h
    exact .inl ⟨rfl, rfl⟩
  | some p =>
    obtain ⟨r, s1⟩ := p
    cases hd : decode r.header with
    | error e =>
      rw [step_illegal hf hd] at h
      cases h
      exact .inr (.inl ⟨r, s1, e, rfl, hd, rfl⟩)
    | ok i =>
      rw [step_decoded hf hd] at h
      exact .inr (.inr ⟨r, s1, i, rfl, hd, h⟩)

end Sys2Proof.Machine
end

