-- ==== Sys2Proof/Laws/Phases.lean ====
section
/-! SUPPORT. The phases, said once: what a tick finds, what the next window phase is, and what a DEC transaction past its
prologue has in hand (43_file_decoder.md R157). -/
namespace Sys2Proof.Machine

theorem tick_busy {s : State} {t : Transaction} (h : s.txn = some t) : tick s = advance t s := by simp [tick, h]

theorem tick_idle {s : State} {r : Request} {rest : List Request} (h : s.txn = none) (hr : s.requests = r :: rest) :
    tick s = enter r (s.latch r rest) := by simp [tick, h, hr]

theorem tick_none {s : State} (h : s.txn = none) (hr : s.requests = []) : tick s = .next s := by simp [tick, h, hr]

theorem nextWindow_cases (header : Text) (remLen i : Nat) (ts : List Triangle) :
    (i < windowCount remLen ∧ nextWindow header remLen i ts = .triangle header remLen i ts) ∨
    (¬i < windowCount remLen ∧ nextWindow header remLen i ts = .done (meshOf header remLen ts)) := by
  unfold nextWindow
  split
  · exact .inl ⟨‹_›, rfl⟩
  · exact .inr ⟨‹_›, rfl⟩

/-- A DEC request past its prologue: its source delivered, its length is at most MAXLEN and is its buffer's size. -/
theorem decoding_iff {maxLen : Length} {r : Request} : r.decoding maxLen = true ↔
    ∃ len, decode r.header = .ok (.dec true len) ∧ len = fieldLen r.header ∧ len ≤ maxLen.val ∧ r.data.size = len := by
  unfold Request.decoding
  split
  · rename_i so len hd
    rw [decide_eq_true_eq, prologueB_proceed_iff, hd]
    have hl : len = fieldLen r.header := by
      obtain ⟨_, _, _, ha, hw⟩ := decode_ok_fields hd
      rw [fieldLen, ha]
      exact (len_toNat hw).symm
    constructor
    · rintro ⟨rfl, h1, h2⟩
      exact ⟨len, rfl, hl, h1, h2⟩
    · rintro ⟨len', h, _, h2, h3⟩
      cases h
      exact ⟨rfl, h2, h3⟩
  · rename_i h
    constructor
    · intro h
      cases h
    · rintro ⟨len, hd, -⟩
      exact absurd hd (h _ _)

/-- The answer of such a request is what DEC gives on its buffer. -/
theorem phasedAnswer_decoding {maxLen : Length} {r : Request} (h : r.decoding maxLen = true) :
    r.phasedAnswer maxLen = opDec (fieldLen r.header) r.data := by
  obtain ⟨len, hd, rfl, hf, hs⟩ := decoding_iff.mp h
  unfold Request.phasedAnswer
  rw [hd]
  simp only [prologueB_ok hf hs]

end Sys2Proof.Machine
end

