-- ==== Sys2Proof/Tests/Slice0.lean ====
section
/-! SUPPORT. The model's own tests: ill-formed operations, headers written out from 30_encoding.md R70 and R71, vectors of
95_test_vectors.md (V1 to V9, S1 to S8, P3), and one witness or more for every obligation that has hypotheses. -/
namespace Sys2Proof.Tests
open Sys2Proof.Machine

/-! ## Sizes (00_scope.md R8, R10) -/

theorem test_sizes : Config.vertexBytes = 3 * Config.floatBytes ∧ Config.triBytes = 4 * Config.vertexBytes + Config.u16Bytes ∧
    Config.minFileBytes = Config.headerBytes + Config.countBytes ∧ Config.leastMaxLen = Config.minFileBytes ∧
    Config.u32Bytes = Config.floatBytes ∧ Config.leastMaxLen ≤ Config.defaultMaxLen.val := by decide

/-! ## WellFormed: each check refuses an ill-formed term, a length of 2^32 (00_scope.md R10) -/

theorem test_illFormed_b2f32 : (Instr.b2f32 true 4294967296).wellFormed = false := by decide
theorem test_illFormed_b2u16 : (Instr.b2u16 true 4294967296).wellFormed = false := by decide
theorem test_illFormed_b2u32 : (Instr.b2u32 true 4294967296).wellFormed = false := by decide
theorem test_illFormed_b2asc : (Instr.b2asc true 4294967296).wellFormed = false := by decide
theorem test_illFormed_vtx : (Instr.vtx true 4294967296).wellFormed = false := by decide
theorem test_illFormed_tri : (Instr.tri true 4294967296).wellFormed = false := by decide
theorem test_illFormed_dec : (Instr.dec true 4294967296).wellFormed = false := by decide
theorem test_longest_wellFormed : (Instr.dec true 4294967295).wellFormed = true := by decide

/-! ## Headers bit by bit: arg, rsv, src_ok, op (30_encoding.md R70; the encoding strings of opcode_table.json) -/

theorem test_decode_b2f32 :
    decode 0b0000000000000000000000000000010000000000000000000000000000010001#64 =
      .ok (.b2f32 true 4) := by decide
theorem test_decode_b2u16 :
    decode 0b0000000000000000000000000000001000000000000000000000000000000010#64 =
      .ok (.b2u16 false 2) := by decide
theorem test_decode_b2u32 :
    decode 0b0000000000000000000000000000010000000000000000000000000000010011#64 =
      .ok (.b2u32 true 4) := by decide
theorem test_decode_f322b :
    decode 0b0100000100100000000000000000000000000000000000000000000000000100#64 =
      .ok (.f322b false 0x41200000#32) := by decide
theorem test_decode_b2asc :
    decode 0b0000000000000000000000000000010100000000000000000000000000010101#64 =
      .ok (.b2asc true 5) := by decide
theorem test_decode_vtx :
    decode 0b0000000000000000000000000000110000000000000000000000000000010110#64 =
      .ok (.vtx true 12) := by decide
theorem test_decode_tri :
    decode 0b0000000000000000000000000011001000000000000000000000000000000111#64 =
      .ok (.tri false 50) := by decide
theorem test_decode_dec :
    decode 0b0000000000000000000000001011100000000000000000000000000000011000#64 =
      .ok (.dec true 184) := by decide

/-- 95_test_vectors.md V9, P4: headers that select no operation. -/
theorem test_decode_rejects :
    decode 0x0000000000000000#64 = .error (.noOperation 0x0) ∧ decode 0x0000000400000019#64 = .error (.noOperation 0x9) ∧
    decode 0x000000000000001F#64 = .error (.noOperation 0xF) ∧ decode 0x0000000400000031#64 = .error .reservedBits ∧
    decode 0x0000000480000011#64 = .error .reservedBits ∧ decode 0x0000000400000021#64 = .error .reservedBits ∧
    decode 0x000000B800000010#64 = .error (.noOperation 0x0) := by decide

/-- Headers of 95_test_vectors.md, encoded. -/
theorem test_encode :
    encode (.b2f32 true 4) = 0x0000000400000011#64 ∧ encode (.f322b false 0x3E200000#32) = 0x3E20000000000004#64 ∧
    encode (.tri false 50) = 0x0000003200000007#64 ∧ encode (.dec true 4294967295) = 0xFFFFFFFF00000018#64 := by decide

/-- No two rows of the operation table select one header, and all have the mask of R71. -/
theorem test_opTable_apart : opTable.Pairwise (fun a b => a.pattern ≠ b.pattern) ∧
    (∀ row ∈ opTable, row.mask = 0x00000000FFFFFFEF#64) ∧ opTable.length = 8 := by decide

theorem test_decodeTableWord : decodeTableWord 64 0x1 = some (.b2f32 false 0) ∧
    decodeTableWord 64 0x4120000000000014 = some (.f322b true 0x41200000#32) ∧ decodeTableWord 64 0 = none := by decide

/-! ## One step on vectors of 95_test_vectors.md -/

/-- The first response of a unit just reset that was issued one request. -/
def answerOf (r : Request) : Option Response :=
  match step (State.reset.issue r) with
  | .next s => s.responses.head?
  | _ => none

/-- A step on the table word placed as the next request. -/
def answerOfWord (w : Nat) : Option Response :=
  match step (State.reset.withFetchWord 64 w) with
  | .next s => s.responses.head?
  | _ => none

theorem test_withFetchWord :
    answerOfWord 0x41200000_00000004 = some (Response.ok (.bytes [0x41#8, 0x20#8, 0x00#8, 0x00#8])) ∧
    answerOfWord 0x1 = some (Response.error .sourceFailure) ∧
    answerOfWord 0x0000000C_00000016 = some (Response.ok (.vertex ⟨0#32, 0#32, 0#32⟩)) ∧
    answerOfWord 0x9 = some (Response.error .illegalOp) := by decide

/-- V1: the little-endian image of 1.0 is not corrected (20_memory.md R43). -/
theorem test_b2f32_order : answerOf (lineB .b2f32 true [0x00#8, 0x00#8, 0x80#8, 0x3F#8]) =
    some (Response.ok (.float32 0x0000803F#32)) := by decide
/-- V1: source failure outranks length. -/
theorem test_b2f32_priority : answerOf (lineB .b2f32 false [0x3E#8, 0x20#8, 0x00#8]) =
    some (Response.error .sourceFailure) := by decide
/-- S3. -/
theorem test_b2u16 : answerOf (lineB .b2u16 true [0x13#8, 0x88#8]) = some (Response.ok (.uint16 5000#16)) := by decide
/-- V2: no truncation. -/
theorem test_b2u16_len3 : answerOf (lineB .b2u16 true [0x13#8, 0x88#8, 0x00#8]) =
    some (Response.error .operandLength) := by decide
/-- V3: the little-endian image of 2. -/
theorem test_b2u32 : answerOf (lineB .b2u32 true [0x02#8, 0x00#8, 0x00#8, 0x00#8]) =
    some (Response.ok (.uint32 33554432#32)) := by decide
/-- V3. -/
theorem test_b2u32_len2 : answerOf (lineB .b2u32 true [0x12#8, 0x34#8]) = some (Response.error .operandLength) := by decide
/-- V4: a signalling NaN is not quieted. -/
theorem test_f322b : answerOf (lineW 0x7F800001#32) =
    some (Response.ok (.bytes [0x7F#8, 0x80#8, 0x00#8, 0x01#8])) := by decide
/-- V4: reserved bit 5 set. -/
theorem test_f322b_reserved : answerOf (rawHeader 0x4120000000000024#64) = some (Response.error .illegalOp) := by decide
/-- V5: a zero byte is no terminator, 0xFF passes through. -/
theorem test_b2asc : answerOf (lineB .b2asc true [0x00#8, 0x20#8, 0x41#8, 0xFF#8]) =
    some (Response.ok (.text [0#8, 32#8, 65#8, 255#8])) := by decide
/-- V5: N = 0. -/
theorem test_b2asc_empty : answerOf (lineB .b2asc true []) = some (Response.ok (.text [])) := by decide
/-- V6: the lane order. -/
theorem test_vtx : answerOf (lineB .vtx true
      [0x00#8, 0x00#8, 0x00#8, 0x01#8, 0x00#8, 0x00#8, 0x00#8, 0x02#8, 0x00#8, 0x00#8, 0x00#8, 0x03#8]) =
    some (Response.ok (.vertex ⟨1#32, 2#32, 3#32⟩)) := by decide
/-- V6. -/
theorem test_vtx_len13 : answerOf (lineB .vtx true (List.replicate 13 0#8)) =
    some (Response.error .operandLength) := by decide

/-- Buffer T1 of 95_test_vectors.md Part 1. -/
def bufferT1 : List Byte :=
  let v : List Byte := [0x41#8, 0x20#8, 0x00#8, 0x00#8, 0x42#8, 0xC8#8, 0x00#8, 0x00#8, 0x41#8, 0xA0#8, 0x00#8, 0x00#8]
  v ++ v ++ v ++ v ++ [0x00#8, 0x00#8]

/-- The Triangle of S8. -/
def triangleT1 : Triangle :=
  let v : Vertex := ⟨0x41200000#32, 0x42C80000#32, 0x41A00000#32⟩
  ⟨v, v, v, v, 0#16⟩

/-- Buffer T2 of 95_test_vectors.md V7. -/
def bufferT2 : List Byte :=
  [0x00#8, 0x00#8, 0x00#8, 0x00#8, 0x00#8, 0x00#8, 0x00#8, 0x00#8, 0x3F#8, 0x80#8, 0x00#8, 0x00#8] ++
  [0x3F#8, 0x80#8, 0x00#8, 0x00#8, 0x00#8, 0x00#8, 0x00#8, 0x00#8, 0x00#8, 0x00#8, 0x00#8, 0x00#8] ++
  [0x00#8, 0x00#8, 0x00#8, 0x00#8, 0x3F#8, 0x80#8, 0x00#8, 0x00#8, 0x00#8, 0x00#8, 0x00#8, 0x00#8] ++
  [0x00#8, 0x00#8, 0x00#8, 0x00#8, 0x00#8, 0x00#8, 0x00#8, 0x00#8, 0xC0#8, 0x00#8, 0x00#8, 0x00#8] ++
  [0x13#8, 0x88#8]

/-- The Triangle of V7, first row. -/
def triangleT2 : Triangle :=
  ⟨⟨0#32, 0#32, 0x3F800000#32⟩, ⟨0x3F800000#32, 0#32, 0#32⟩, ⟨0#32, 0x3F800000#32, 0#32⟩, ⟨0#32, 0#32, 0xC0000000#32⟩,
    5000#16⟩

/-- The 80 header bytes of buffer F1 of 95_test_vectors.md P3. -/
def headerF1 : List Byte :=
  [0x68#8, 0x65#8, 0x6C#8, 0x6C#8, 0x6F#8] ++ List.replicate 73 0x20#8 ++ [0x00#8, 0x00#8]

/-- Buffer F1 of P3: the declared count is 7, wrong on purpose. -/
def bufferF1 : List Byte := headerF1 ++ [0x00#8, 0x00#8, 0x00#8, 0x07#8] ++ bufferT1 ++ bufferT2

/-- V7: field order. -/
theorem test_tri : answerOf (lineB .tri true bufferT2) = some (Response.ok (.triangle triangleT2)) := by decide
/-- V7: no truncation. -/
theorem test_tri_len51 : answerOf (lineB .tri true (bufferT2 ++ [0x00#8])) = some (Response.error .recordLength) := by decide
set_option maxRecDepth 10000 in
/-- P3: two records in file order, the declared count ignored. -/
theorem test_dec : answerOf (lineB .dec true bufferF1) =
    some (Response.ok (.mesh ⟨headerF1, 2#32, [triangleT1, triangleT2]⟩)) := by decide
/-- V8: len 4294967295, remainder 11. -/
theorem test_dec_longest : answerOf ⟨0xFFFFFFFF00000018#64, Memory.zeros 4294967295⟩ =
    some (Response.error .misalignedTrailingData) := by decide

/-! ## Reading patterns (30_encoding.md R75, log 17): the labels of 95_test_vectors.md V1 -/

theorem test_float32_classes : f32Class 0x80000000#32 = .zero ∧ f32Class 0x0000803F#32 = .subnormal ∧
    f32Class 0x00800000#32 = .normal ∧ f32Class 0xFF800000#32 = .infinity ∧ f32Class 0x7FC00000#32 = .quietNaN ∧
    f32Class 0x7F800001#32 = .signallingNaN := by decide

/-! ## Witnesses: states and operands that meet the hypotheses of the obligations -/

/-- A MAXLEN of 134. -/
def max134 : Length := ⟨134, by decide⟩

/-- A request with a buffer of `n` bytes 0. -/
def zeroRequest (h : Header) (n : Nat) : Request := ⟨h, Memory.zeros n⟩

/-- A unit that has such a request latched, with one more waiting and one response issued. -/
def latched (h : Header) (n : Nat) : State :=
  { maxLen := max134, requests := [rawHeader 0#64], txn := some (Transaction.start (zeroRequest h n)),
    responses := [Response.error .illegalOp] }

/-- An idle unit with such a request and one more waiting. -/
def waiting (h : Header) (n : Nat) : State :=
  { maxLen := max134, requests := [zeroRequest h n, rawHeader 0#64], txn := none,
    responses := [Response.error .illegalOp] }

/-- The premises every clause of a Meaning statement has, and the size of the buffer. -/
abbrev latchedFits (h : Header) (n : Nat) : Prop :=
  (latched h n).txn = some (Transaction.start (zeroRequest h n)) ∧ 84 ≤ (latched h n).maxLen.val ∧
    n ≤ (latched h n).maxLen.val ∧ (Transaction.start (zeroRequest h n)).request.data.size = n

/-- An operation of `k` answers a next state that issues `a`, from a latched unit. -/
abbrev Issues (i : Instr) (h : Header) (n : Nat) (a : Response) : Prop :=
  ∃ s', exec i (latched h n) = .next s' ∧ s'.responses = (latched h n).responses ++ [a]

theorem witness_ResetIsIdle : (waiting 0x5#64 0).txn = none ∧ (waiting 0x5#64 0).requests = [zeroRequest 0x5#64 0, rawHeader 0#64] := by decide
theorem witness_IdleStepChangesNothing : State.reset.txn = none ∧ State.reset.requests = [] := by decide
theorem witness_DecodeOfEncode : (Instr.dec true 4294967295).wellFormed = true ∧ (Instr.b2asc false 0).wellFormed = true ∧
    (Instr.f322b true 0xFFFFFFFF#32).wellFormed = true := by decide
theorem witness_EncodeOfDecode : decode 0xFFFFFFFF00000018#64 = .ok (.dec true 4294967295) := by decide
theorem witness_DecodeAgreesWithTable : decode 0x0000005400000018#64 = .ok (.dec true 84) ∧
    (⟨"DEC", 0x0000000000000008#64, opMask⟩ : OpRow) ∈ opTable ∧
    OpRow.selects ⟨"DEC", 0x0000000000000008#64, opMask⟩ 0x0000005400000018#64 = true := by decide
theorem witness_IllegalHeaderIsAnswered : (waiting 0x31#64 4).txn = none ∧
    (waiting 0x31#64 4).requests = [zeroRequest 0x31#64 4, rawHeader 0#64] ∧ fieldRsv 0x31#64 ≠ 0 ∧
    fieldRsv 0x80000011#64 ≠ 0 ∧ fieldOp 0x10#64 = 0 ∧ 9 ≤ (fieldOp 0x19#64).toNat ∧ 9 ≤ (fieldOp 0x1F#64).toNat ∧
    (fieldRsv 0x1#64 = 0 ∧ 1 ≤ (fieldOp 0x1#64).toNat ∧ (fieldOp 0x1#64).toNat ≤ 8) ∧
    (fieldRsv 0x18#64 = 0 ∧ 1 ≤ (fieldOp 0x18#64).toNat ∧ (fieldOp 0x18#64).toNat ≤ 8) := by decide
theorem witness_StepServesDecodedRequest : decode (zeroRequest 0x0000000400000011#64 4).header = .ok (.b2f32 true 4) ∧
    (waiting 0x0000000400000011#64 4).txn = none ∧
    (waiting 0x0000000400000011#64 4).requests = [zeroRequest 0x0000000400000011#64 4, rawHeader 0#64] ∧
    (latched 0x0000000400000011#64 4).txn = some (Transaction.start (zeroRequest 0x0000000400000011#64 4)) := by decide
/-- The right length, lengths beside it, a reserved bit, a failed source at the length MAXLEN. -/
theorem witness_B2f32Meaning : 
    (fieldRsv 0x0000000400000011#64 = 0 ∧ fieldOp 0x0000000400000011#64 = 0x1) ∧
    (latchedFits 0x0000000400000011#64 4) ∧
    (latchedFits 0x0000000000000011#64 0 ∧ (0 : Nat) ≠ 4) ∧
    (latchedFits 0x0000000300000011#64 3 ∧ (3 : Nat) ≠ 4) ∧
    (latchedFits 0x0000000500000011#64 5 ∧ (5 : Nat) ≠ 4) ∧
    (fieldOp 0x0000000400000031#64 = 0x1 ∧ fieldRsv 0x0000000400000031#64 ≠ 0) ∧
    (latchedFits 0x0000008600000001#64 134) := by decide
/-- The right length, lengths beside it, a reserved bit, a failed source at the length MAXLEN. -/
theorem witness_B2u16Meaning : 
    (fieldRsv 0x0000000200000012#64 = 0 ∧ fieldOp 0x0000000200000012#64 = 0x2) ∧
    (latchedFits 0x0000000200000012#64 2) ∧
    (latchedFits 0x0000000100000012#64 1 ∧ (1 : Nat) ≠ 2) ∧
    (latchedFits 0x0000000300000012#64 3 ∧ (3 : Nat) ≠ 2) ∧
    (fieldOp 0x0000000200000032#64 = 0x2 ∧ fieldRsv 0x0000000200000032#64 ≠ 0) ∧
    (latchedFits 0x0000008600000002#64 134) := by decide
/-- The right length, lengths beside it, a reserved bit, a failed source at the length MAXLEN. -/
theorem witness_B2u32Meaning : 
    (fieldRsv 0x0000000400000013#64 = 0 ∧ fieldOp 0x0000000400000013#64 = 0x3) ∧
    (latchedFits 0x0000000400000013#64 4) ∧
    (latchedFits 0x0000000300000013#64 3 ∧ (3 : Nat) ≠ 4) ∧
    (latchedFits 0x0000000500000013#64 5 ∧ (5 : Nat) ≠ 4) ∧
    (fieldOp 0x0000000400000033#64 = 0x3 ∧ fieldRsv 0x0000000400000033#64 ≠ 0) ∧
    (latchedFits 0x0000008600000003#64 134) := by decide
/-- The right length, lengths beside it, a reserved bit, a failed source at the length MAXLEN. -/
theorem witness_VtxMeaning : 
    (fieldRsv 0x0000000C00000016#64 = 0 ∧ fieldOp 0x0000000C00000016#64 = 0x6) ∧
    (latchedFits 0x0000000C00000016#64 12) ∧
    (latchedFits 0x0000000B00000016#64 11 ∧ (11 : Nat) ≠ 12) ∧
    (latchedFits 0x0000000D00000016#64 13 ∧ (13 : Nat) ≠ 12) ∧
    (fieldOp 0x0000000C00000036#64 = 0x6 ∧ fieldRsv 0x0000000C00000036#64 ≠ 0) ∧
    (latchedFits 0x0000008600000006#64 134) := by decide
/-- The right length, lengths beside it, a reserved bit, a failed source at the length MAXLEN. -/
theorem witness_TriMeaning : 
    (fieldRsv 0x0000003200000017#64 = 0 ∧ fieldOp 0x0000003200000017#64 = 0x7) ∧
    (latchedFits 0x0000003200000017#64 50) ∧
    (latchedFits 0x0000003100000017#64 49 ∧ (49 : Nat) ≠ 50) ∧
    (latchedFits 0x0000003300000017#64 51 ∧ (51 : Nat) ≠ 50) ∧
    (fieldOp 0x0000003200000037#64 = 0x7 ∧ fieldRsv 0x0000003200000037#64 ≠ 0) ∧
    (latchedFits 0x0000008600000007#64 134) := by decide
theorem witness_F322bMeaning : fieldRsv 0x7F80000100000014#64 = 0 ∧ fieldOp 0x7F80000100000014#64 = 0x4 ∧
    (latched 0x7F80000100000014#64 0).txn = some (Transaction.start (zeroRequest 0x7F80000100000014#64 0)) ∧
    fieldOp 0x24#64 = 0x4 ∧ fieldRsv 0x24#64 ≠ 0 := by decide
/-- The empty text and the text of MAXLEN characters. -/
theorem witness_B2ascMeaning : fieldRsv 0x15#64 = 0 ∧ fieldOp 0x15#64 = 0x5 ∧ latchedFits 0x15#64 0 ∧
    latchedFits 0x0000008600000015#64 134 ∧ fieldOp 0x35#64 = 0x5 ∧ fieldRsv 0x35#64 ≠ 0 := by decide
/-- Lengths 0, 83, 84, 85, 133, 134. -/
theorem witness_DecMeaning : fieldRsv 0x0000005400000018#64 = 0 ∧ fieldOp 0x0000005400000018#64 = 0x8 ∧
    (fieldOp 0x38#64 = 0x8 ∧ fieldRsv 0x38#64 ≠ 0) ∧ (latchedFits 0x18#64 0 ∧ (0 : Nat) < 84) ∧
    (latchedFits 0x0000005300000018#64 83 ∧ (83 : Nat) < 84) ∧
    latchedFits 0x0000005400000018#64 (84 + 50 * 0) ∧
    (latchedFits 0x0000005500000018#64 85 ∧ (84 : Nat) ≤ 85 ∧ (85 - 84) % 50 ≠ 0) ∧
    (latchedFits 0x0000008500000018#64 133 ∧ (84 : Nat) ≤ 133 ∧ (133 - 84) % 50 ≠ 0) ∧
    latchedFits 0x0000008600000018#64 (84 + 50 * 1) := by decide
theorem witness_SourceFailureWhateverTheBuffer : Instr.dec ∈ [Instr.b2f32, Instr.b2u16, Instr.b2u32, Instr.b2asc, Instr.vtx, Instr.tri, Instr.dec] ∧
    (latched 0xFFFFFFFF00000008#64 3).txn = some (Transaction.start (zeroRequest 0xFFFFFFFF00000008#64 3)) ∧
    (waiting 0x8#64 0).txn = none ∧ decode 0xFFFFFFFF00000008#64 = .ok (.dec false 4294967295) ∧
    decode 0x8#64 = .ok (.dec false 0) := ⟨by simp, by decide, by decide, by decide, by decide⟩
/-- A length of MAXLEN + 1; lengths 12 and MAXLEN with a buffer one byte short, and MAXLEN with one a byte too long. -/
theorem witness_HostDutiesBrokenAreRefused :
    Instr.vtx ∈ [Instr.b2f32, Instr.b2u16, Instr.b2u32, Instr.b2asc, Instr.vtx, Instr.tri, Instr.dec] ∧
    ((latched 0x0000008700000016#64 135).txn = some (Transaction.start (zeroRequest 0x0000008700000016#64 135)) ∧
      (latched 0x0000008700000016#64 135).maxLen.val < 135) ∧
    ((latched 0x0000000C00000016#64 11).txn = some (Transaction.start (zeroRequest 0x0000000C00000016#64 11)) ∧
      12 ≤ (latched 0x0000000C00000016#64 11).maxLen.val ∧ (zeroRequest 0x0000000C00000016#64 11).data.size ≠ 12) ∧
    ((latched 0x0000008600000016#64 133).txn = some (Transaction.start (zeroRequest 0x0000008600000016#64 133)) ∧
      134 ≤ (latched 0x0000008600000016#64 133).maxLen.val ∧ (latched 0x0000008600000016#64 133).maxLen.val = 134 ∧
      (zeroRequest 0x0000008600000016#64 133).data.size ≠ 134) ∧
    ((latched 0x0000008600000016#64 135).txn = some (Transaction.start (zeroRequest 0x0000008600000016#64 135)) ∧
      134 ≤ (latched 0x0000008600000016#64 135).maxLen.val ∧ (zeroRequest 0x0000008600000016#64 135).data.size ≠ 134) :=
  ⟨by simp, by decide, by decide, by decide, by decide⟩
theorem witness_MaxLenIsConstant : (waiting 0x0000005400000018#64 84).wf = true ∧
    (∃ s', step (waiting 0x0000005400000018#64 84) = .next s') ∧
    ∃ s', tick (waiting 0x0000005400000018#64 84) = .next s' := ⟨by decide, ⟨_, rfl⟩, ⟨_, rfl⟩⟩
theorem witness_StepKeepsLegalState : (waiting 0x0000008600000018#64 134).wf = true ∧
    ∃ s', step (waiting 0x0000008600000018#64 134) = .next s' := ⟨by decide, ⟨_, rfl⟩⟩

/-- A unit inside a DEC transaction on `n` bytes 0. -/
def inPhase (n : Nat) (p : Phase) : State :=
  { maxLen := max134, requests := [], txn := some ⟨zeroRequest (encode (.dec true n)) n, p⟩, responses := [] }

/-- The text and the triangle of bytes 0. -/
def zeroText : Text := List.replicate 80 0#8
def zeroTriangle : Triangle :=
  ⟨⟨0#32, 0#32, 0#32⟩, ⟨0#32, 0#32, 0#32⟩, ⟨0#32, 0#32, 0#32⟩, ⟨0#32, 0#32, 0#32⟩, 0#16⟩
def zeroMesh : Mesh := ⟨zeroText, 1#32, [zeroTriangle]⟩

/-- Every phase occurs in a legal state. -/
theorem witness_phases_legal : (inPhase 134 .checkLen).wf = true ∧ (inPhase 134 .readHeader).wf = true ∧
    (inPhase 134 (.checkAlign zeroText)).wf = true ∧ (inPhase 134 (.triangle zeroText 50 0 [])).wf = true ∧
    (inPhase 134 (.done zeroMesh)).wf = true ∧ (inPhase 85 (.error .misalignedTrailingData)).wf = true := by decide
theorem witness_TickKeepsLegalState : (inPhase 134 (.triangle zeroText 50 0 [])).wf = true ∧
    tick (inPhase 134 (.triangle zeroText 50 0 [])) = .next (inPhase 134 (.done zeroMesh)) := ⟨by decide, rfl⟩
theorem witness_OperationFrame : ∃ s', exec (.dec true 84) (latched 0x0000005400000018#64 84) = .next s' ∧
    s'.requests[0]? = some (rawHeader 0#64) := ⟨_, rfl, rfl⟩
theorem witness_NoReadOutsideBuffer : (inPhase 134 .readHeader).wf = true := by decide
/-- One operation for each clause. -/
theorem witness_ErrorKindSources : Issues (.tri false 50) 0x0000003200000007#64 3 (Response.error .sourceFailure) ∧
    Issues (.b2f32 true 3) 0x0000000300000011#64 3 (Response.error .operandLength) ∧
    Issues (.b2u16 true 3) 0x0000000300000012#64 3 (Response.error .operandLength) ∧
    Issues (.b2u32 true 5) 0x0000000500000013#64 5 (Response.error .operandLength) ∧
    Issues (.vtx true 11) 0x0000000B00000016#64 11 (Response.error .operandLength) ∧
    Issues (.tri true 51) 0x0000003300000017#64 51 (Response.error .recordLength) ∧
    Issues (.dec true 83) 0x0000005300000018#64 83 (Response.error .truncatedInput) ∧
    Issues (.dec true 85) 0x0000005500000018#64 85 (Response.error .misalignedTrailingData) := 
  ⟨⟨_, rfl, rfl⟩, ⟨_, rfl, rfl⟩, ⟨_, rfl, rfl⟩, ⟨_, rfl, rfl⟩, ⟨_, rfl, rfl⟩, ⟨_, rfl, rfl⟩, ⟨_, rfl, rfl⟩, ⟨_, rfl, rfl⟩⟩
theorem witness_DecNeverReportsInnerErrors : ∃ s', exec (.dec true 83) (latched 0x0000005300000018#64 83) = .next s' := ⟨_, rfl⟩
theorem witness_ResultTypeOfOperation : Issues (.b2f32 true 4) 0x0000000400000011#64 4 (Response.ok (.float32 0#32)) ∧
    Issues (.b2u16 true 2) 0x0000000200000012#64 2 (Response.ok (.uint16 0#16)) ∧
    Issues (.b2u32 true 4) 0x0000000400000013#64 4 (Response.ok (.uint32 0#32)) ∧
    Issues (.f322b true 1#32) 0x0000000100000014#64 0 (Response.ok (.bytes [0#8, 0#8, 0#8, 1#8])) ∧
    Issues (.b2asc true 1) 0x0000000100000015#64 1 (Response.ok (.text [0#8])) ∧
    Issues (.vtx true 12) 0x0000000C00000016#64 12 (Response.ok (.vertex ⟨0#32, 0#32, 0#32⟩)) ∧
    Issues (.tri true 50) 0x0000003200000017#64 50 (Response.ok (.triangle zeroTriangle)) ∧
    Issues (.dec true 134) 0x0000008600000018#64 134 (Response.ok (.mesh zeroMesh)) ∧
    Issues (.dec true 83) 0x0000005300000018#64 83 (Response.error .truncatedInput) := 
  ⟨⟨_, rfl, rfl⟩, ⟨_, rfl, rfl⟩, ⟨_, rfl, rfl⟩, ⟨_, rfl, rfl⟩, ⟨_, rfl, rfl⟩, ⟨_, rfl, rfl⟩, ⟨_, rfl, rfl⟩, ⟨_, rfl, rfl⟩,
    ⟨_, rfl, rfl⟩⟩
theorem witness_ResponseDependsOnRequestAlone : (waiting 0x15#64 0).txn = none ∧
    (waiting 0x15#64 0).requests = [zeroRequest 0x15#64 0, rawHeader 0#64] ∧
    ((State.fresh max134).issue (zeroRequest 0x15#64 0)).txn = none ∧
    ((State.fresh max134).issue (zeroRequest 0x15#64 0)).requests = [zeroRequest 0x15#64 0] ∧
    (waiting 0x15#64 0).maxLen = ((State.fresh max134).issue (zeroRequest 0x15#64 0)).maxLen := by decide
theorem witness_AcceptedRequestsAreAnswered : (zeroRequest 0x15#64 0).accepted max134 = true ∧
    (zeroRequest 0x0000008700000015#64 135).accepted max134 = false ∧
    Answers max134 (zeroRequest 0x15#64 0) (Response.ok (.text [])) := ⟨by decide, by decide, rfl⟩
theorem witness_RunAnswersInRequestOrder : 
    List.Forall₂ (Answers (waiting 0x0000005300000018#64 83).maxLen) (waiting 0x0000005300000018#64 83).requests
      [Response.error .truncatedInput, Response.error .illegalOp] ∧ (waiting 0x0000005300000018#64 83).txn = none := 
  ⟨.cons rfl (.cons rfl .nil), rfl⟩
theorem witness_RoundTripThroughUnit : 84 ≤ max134.val ∧ [0x7F#8, 0x80#8, 0x00#8, 0x01#8].length = 4 := by decide
theorem witness_MixedWidthViews : 84 ≤ max134.val := by decide
theorem witness_AssemblyPrimitives : [0x12#8, 0x34#8, 0x56#8, 0x78#8].length = 4 := by decide
theorem witness_AssemblyIsBijective : [0x13#8, 0x88#8].length = 2 ∧ be16 [0x13#8, 0x88#8] = be16 [0x13#8, 0x88#8] ∧
    [0x12#8, 0x34#8, 0x56#8, 0x78#8].length = 4 ∧
    be32 [0x12#8, 0x34#8, 0x56#8, 0x78#8] = be32 [0x12#8, 0x34#8, 0x56#8, 0x78#8] := by decide
/-- Two operands that agree in lanes 0 and 1 and differ in lane 2. -/
theorem witness_VertexLanesAreIndependent : (List.replicate 12 0#8).length = 12 ∧
    Answers max134 (lineB .vtx true (List.replicate 12 0#8)) (Response.ok (.vertex ⟨0#32, 0#32, 0#32⟩)) ∧
    (List.replicate 11 0#8 ++ [1#8]).length = 12 ∧
    Answers max134 (lineB .vtx true (List.replicate 11 0#8 ++ [1#8])) (Response.ok (.vertex ⟨0#32, 0#32, 1#32⟩)) := ⟨rfl, rfl, rfl, rfl⟩
theorem witness_TriangleRecordsBijective : 84 ≤ max134.val ∧ bufferT2.length = 50 ∧
    Answers max134 (lineB .tri true bufferT2) (Response.ok (.triangle triangleT2)) := ⟨by decide, rfl, rfl⟩
theorem witness_EffectiveAddresses : (Memory.zeros 134).size = 134 ∧ opDec 134 (Memory.zeros 134) = some (Response.ok (.mesh zeroMesh)) ∧
    (0 : Nat) < zeroMesh.count.toNat ∧ opTri 50 (Memory.ofBytes bufferT2) = some (Response.ok (.triangle triangleT2)) ∧
    opVtx 12 (Memory.zeros 12) = some (Response.ok (.vertex ⟨0#32, 0#32, 0#32⟩)) := by decide
set_option maxRecDepth 10000 in
theorem witness_DecElementsAreTriAnswers : Answers max134 (lineB .dec true (List.replicate 134 0#8)) (Response.ok (.mesh zeroMesh)) ∧
    (0 : Nat) < zeroMesh.count.toNat := ⟨rfl, by decide⟩
set_option maxRecDepth 10000 in
theorem witness_DecHeaderIsB2ascText : Answers max134 (lineB .dec true (List.replicate 134 0#8)) (Response.ok (.mesh zeroMesh)) := rfl
theorem witness_DeclaredCountReachesNoOutput : latchedFits 0x0000005300000018#64 83 ∧ (waiting 0x18#64 0).txn = none ∧
    fieldOp 0x0000005400000018#64 = 0x8 ∧ sameButDeclaredCount (Memory.zeros 84) ⟨84, [(83, 7#8)]⟩ ∧
    Memory.zeros 84 ≠ ⟨84, [(83, 7#8)]⟩ := by
  refine ⟨by decide, by decide, by decide, ⟨rfl, fun a ha => ?_⟩, by decide⟩
  have hne : (a == 83) = false := by simp; omega
  simp [Memory.byte, Memory.zeros, List.lookup, hne]
theorem witness_FileOfRecordsDecodes : headerF1.length = 80 ∧ [0#8, 0#8, 0#8, 7#8].length = 4 ∧ (∀ b ∈ [bufferT2], b.length = 50) ∧
    84 + 50 * [bufferT2].length ≤ max134.val ∧
    List.Forall₂ (fun b t => Answers max134 (lineB .tri true b) (Response.ok (.triangle t))) [bufferT2] [triangleT2] := 
  ⟨by decide, by decide, by decide, by decide, .cons rfl .nil⟩
theorem witness_NoPatternIsMerged : [0x7F#8, 0x80#8, 0x00#8, 0x01#8].length = 4 ∧
    Answers max134 (lineB .b2f32 true [0x7F#8, 0x80#8, 0x00#8, 0x01#8]) (Response.ok (.float32 0x7F800001#32)) ∧
    Answers max134 (lineW 0x7F800001#32) (Response.ok (.bytes [0x7F#8, 0x80#8, 0x00#8, 0x01#8])) := ⟨rfl, rfl, rfl⟩
theorem witness_Float32Layout : f32ValueUlps 0x00000000#32 = some 0 ∧ f32ValueUlps 0x80000000#32 = some 0 ∧
    f32ValueUlps 0x00000001#32 = some 1 := by decide
theorem witness_BuffersAreCanonical : (Memory.ofBytes bufferT2).wf = true ∧ (Memory.zeros 50).wf = true ∧
    (Memory.ofBytes bufferT2).size = (Memory.zeros 50).size ∧ (Memory.zeros 4).wf = true ∧
    (∀ a, a < (Memory.zeros 4).size → (Memory.ofBytes [0#8, 0#8, 0#8, 0#8]).byte a = (Memory.zeros 4).byte a) := by decide
theorem witness_PhasesRefineStep : (waiting 0x0000008600000018#64 134).wf = true ∧
    ∃ r s1, fetch (waiting 0x0000008600000018#64 134) = some (r, s1) := ⟨by decide, ⟨_, _, rfl⟩⟩
theorem witness_PhasesMoveForward : (inPhase 83 .checkLen).wf = true ∧
    tick (inPhase 83 .checkLen) = .next (inPhase 83 (.error .truncatedInput)) ∧
    (inPhase 85 (.checkAlign zeroText)).wf = true ∧
    tick (inPhase 85 (.checkAlign zeroText)) = .next (inPhase 85 (.error .misalignedTrailingData)) := ⟨by decide, rfl, by decide, rfl⟩
theorem witness_TickFrame : tick (inPhase 134 .readHeader) = .next (inPhase 134 (.checkAlign zeroText)) ∧
    tick (inPhase 134 (.done zeroMesh)) =
      .next { maxLen := max134, requests := [], txn := none, responses := [Response.ok (.mesh zeroMesh)] } ∧
    tick (inPhase 85 (.error .misalignedTrailingData)) =
      .next { maxLen := max134, requests := [], txn := none, responses := [Response.error .misalignedTrailingData] } := ⟨rfl, rfl, rfl⟩

end Sys2Proof.Tests
end

/-! # The family 00_scope.md: legal states, MAXLEN, the request alone, byte order, buffers

Each part is a layer of lemmas about the model's operations, and then the obligations they settle. -/

/-! ## What a step leaves of the interface: MAXLEN and the waiting requests -/

namespace Sys2Proof.Machine

/-- A fetch keeps MAXLEN and the responses, and every request that still waits had been waiting. -/
theorem fetch_frame {s s1 : State} {r : Request} (h : fetch s = some (r, s1)) :
    s1.maxLen = s.maxLen ∧ s1.responses = s.responses ∧ ∀ q ∈ s1.requests, q ∈ s.requests := by
  obtain ⟨_, _, e⟩ | ⟨r', rest, _, hr, e⟩ | ⟨t, _, e⟩ := fetch_cases s
  · rw [e] at h; cases h
  · rw [e] at h; cases h
    exact ⟨rfl, rfl, fun q hq => hr ▸ List.mem_cons_of_mem _ hq⟩
  · rw [e] at h; cases h
    exact ⟨rfl, rfl, fun _ hq => hq⟩

theorem exec_next_maxLen {i : Instr} {s s' : State} (h : exec i s = .next s') : s'.maxLen = s.maxLen := by
  obtain ⟨_, _, _, rfl, _⟩ := exec_next h
  rfl

theorem step_next_maxLen {s s' : State} (h : step s = .next s') : s'.maxLen = s.maxLen := by
  obtain ⟨_, rfl⟩ | ⟨_, _, _, hf, _, rfl⟩ | ⟨_, _, _, hf, _, he⟩ := step_next h
  · rfl
  · exact (fetch_frame hf).1
  · exact (exec_next_maxLen he).trans (fetch_frame hf).1

/-- A tick inside a transaction moves it to another phase or issues its response. -/
theorem advance_next {t : Transaction} {s s' : State} (h : advance t s = .next s') :
    (∃ p, s' = s.toPhase t p) ∨ ∃ a, s' = s.respond a := by
  obtain ⟨r, p⟩ := t
  cases p with
  | checkLen =>
    simp only [advance] at h
    split at h <;> cases h <;> exact .inl ⟨_, rfl⟩
  | readHeader =>
    simp only [advance] at h
    split at h <;> cases h
    exact .inl ⟨_, rfl⟩
  | checkAlign header =>
    simp only [advance] at h
    split at h <;> cases h <;> exact .inl ⟨_, rfl⟩
  | triangle header remLen i decoded =>
    simp only [advance] at h
    split at h <;> cases h
    exact .inl ⟨_, rfl⟩
  | done mesh => cases h; exact .inr ⟨_, rfl⟩
  | error k => cases h; exact .inr ⟨_, rfl⟩

/-- A DEC transaction that leaves IDLE keeps its phase CHECK_LEN, or goes to ERROR. -/
theorem enterDec_next {srcOk : Bool} {len : Nat} {r : Request} {s s' : State}
    (h : enterDec srcOk len r s = .next s') : s' = s ∨ ∃ p, s' = s.toPhase (Transaction.start r) p := by
  unfold enterDec at h
  split at h
  · cases h; exact .inr ⟨_, rfl⟩
  · cases h
  · cases h; exact .inl rfl

/-- The tick out of IDLE leaves the transaction in progress, in some phase, or is one whole operation. -/
theorem enter_next {r : Request} {s s' : State} (h : enter r s = .next s') :
    (s' = s ∨ ∃ p, s' = s.toPhase (Transaction.start r) p) ∨ ∃ i, decode r.header = .ok i ∧ exec i s = .next s' := by
  unfold enter at h
  split at h
  · cases h; exact .inl (.inr ⟨_, rfl⟩)
  · exact .inl (enterDec_next h)
  · rename_i i _ hd
    exact .inr ⟨i, hd, h⟩

theorem enter_next_maxLen {r : Request} {s s' : State} (h : enter r s = .next s') : s'.maxLen = s.maxLen := by
  obtain (rfl | ⟨_, rfl⟩) | ⟨_, _, he⟩ := enter_next h
  · rfl
  · rfl
  · exact exec_next_maxLen he

theorem tick_next_maxLen {s s' : State} (h : tick s = .next s') : s'.maxLen = s.maxLen := by
  cases ht : s.txn with
  | some t =>
    rw [tick_busy ht] at h
    obtain ⟨_, rfl⟩ | ⟨_, rfl⟩ := advance_next h <;> rfl
  | none =>
    cases hr : s.requests with
    | nil => rw [tick_none ht hr] at h; cases h; rfl
    | cons r rest =>
      rw [tick_idle ht hr] at h
      exact (enter_next_maxLen h).trans (s.latch_maxLen r rest)

/-! ## Legal states -/

theorem State.wf_iff {s : State} : s.wf = true ↔ Config.leastMaxLen ≤ s.maxLen.val ∧
    (∀ q ∈ s.requests, q.wf = true) ∧ txnWf s.maxLen s.txn = true ∧ ∀ a ∈ s.responses, a.wf = true := by
  simp [State.wf, and_assoc]

/-- A unit just reset is legal whatever its MAXLEN in the range of 00_scope.md R10. -/
theorem State.fresh_wf {maxLen : Length} (h : Config.leastMaxLen ≤ maxLen.val) : (State.fresh maxLen).wf = true :=
  State.wf_iff.mpr ⟨h, by simp, rfl, by simp⟩

@[simp] theorem Response.error_wf (k : ErrorKind) : (Response.error k).wf = true := rfl
@[simp] theorem Response.ok_wf (v : Result) : (Response.ok v).wf = v.wf := rfl

/-- A response of legal shape, issued in a state with the interface of a legal one, leaves a legal state, whatever the
transaction was: it is discarded. -/
theorem State.respond_wf {s s1 : State} {a : Response} (hs : s.wf = true) (hm : s1.maxLen = s.maxLen)
    (hr : s1.responses = s.responses) (hq : ∀ q ∈ s1.requests, q ∈ s.requests) (ha : a.wf = true) :
    (s1.respond a).wf = true := by
  obtain ⟨hmax, hreq, -, hresp⟩ := State.wf_iff.mp hs
  refine State.wf_iff.mpr ⟨?_, fun q h => hreq q (hq q h), rfl, fun b hb => ?_⟩
  · rwa [State.respond_maxLen, hm]
  · rw [State.respond_responses, hr, List.mem_append, List.mem_singleton] at hb
    obtain hb | rfl := hb
    · exact hresp b hb
    · exact ha

/-- An operation that checks its length and then reads answers in legal shape, when what it makes of the read is. -/
theorem lengthChecked_wf {c : Prop} [Decidable c] {k : ErrorKind} {α : Type} {o : Option α} {f : α → Result}
    {a : Response} (hf : ∀ x, (f x).wf = true)
    (h : (if c then some (Response.error k) else o.map fun x => Response.ok (f x)) = some a) : a.wf = true := by
  split at h
  · cases h; rfl
  · obtain ⟨x, _, rfl⟩ := Option.map_eq_some_iff.mp h
    exact hf x

/-- DEC's Mesh has 80 header characters and as many triangles as its count, since the count of a buffer of fewer than
2^32 bytes fits its 32 bits. -/
theorem opDec_wf {len : Nat} {m : Memory} {a : Response} (hs : m.size = len) (hl : len < 2 ^ 32)
    (h : opDec len m = some a) : a.wf = true := by
  by_cases hshort : len < 84
  · rw [opDec_short m hshort] at h; cases h; rfl
  · have hlong : 84 ≤ len := by omega
    by_cases hr : (len - 84) % 50 = 0
    · rw [opDec_exact m hs hlong hr] at h
      cases h
      have hcount : (len - 84) / 50 % 2 ^ 32 = (len - 84) / 50 := Nat.mod_eq_of_lt (by omega)
      rw [Response.ok_wf, Result.wf, BitVec.toNat_ofNat, hcount]
      simp [Config.headerBytes]
    · rw [opDec_misaligned m hs hlong hr] at h; cases h; rfl

/-- On a buffer of its declared length, a number of 32 bits, every operation answers in legal shape. -/
theorem opOf_wf {i : Instr} {m : Memory} {a : Response}
    (hs : isFormatW i = false → m.size = i.operandLen ∧ i.operandLen < 2 ^ 32) (h : opOf i m = some a) :
    a.wf = true := by
  cases i with
  | b2f32 _ _ => exact lengthChecked_wf (fun _ => rfl) h
  | b2u16 _ _ => exact lengthChecked_wf (fun _ => rfl) h
  | b2u32 _ _ => exact lengthChecked_wf (fun _ => rfl) h
  | f322b _ _ => cases h; rfl
  | b2asc _ _ =>
    obtain ⟨_, _, rfl⟩ := Option.map_eq_some_iff.mp h
    rfl
  | vtx _ _ => exact lengthChecked_wf (fun _ => rfl) h
  | tri _ _ => exact lengthChecked_wf (fun _ => rfl) h
  | dec _ _ => exact opDec_wf (hs rfl).1 (hs rfl).2 h

/-- An operation that answers a next state has issued one response, of legal shape: no length above MAXLEN gets as far
as its operation. -/
theorem exec_next_wf {i : Instr} {s s' : State} (h : exec i s = .next s') :
    ∃ a, s' = s.respond a ∧ a.wf = true := by
  obtain ⟨t, a, _, hs', ⟨_, _, rfl⟩ | ⟨_, _, hl, hsize, hop⟩ | ⟨hw, hop⟩⟩ := exec_next h
  · exact ⟨_, hs', rfl⟩
  · exact ⟨a, hs', opOf_wf (fun _ => ⟨hsize, Config.len_lt hl⟩) hop⟩
  · exact ⟨a, hs', opOf_wf (fun hb => absurd (hw.symm.trans hb) (by decide)) hop⟩

/-- A step that serves a request ends in one response of legal shape; otherwise it changes nothing. -/
theorem step_next_wf {s s' : State} (h : step s = .next s') :
    s' = s ∨ ∃ r s1 a, fetch s = some (r, s1) ∧ s' = s1.respond a ∧ a.wf = true := by
  obtain ⟨_, hs'⟩ | ⟨r, s1, _, hf, _, hs'⟩ | ⟨r, s1, _, hf, _, he⟩ := step_next h
  · exact .inl hs'
  · exact .inr ⟨r, s1, _, hf, hs', Response.error_wf _⟩
  · obtain ⟨a, hs', ha⟩ := exec_next_wf he
    exact .inr ⟨r, s1, a, hf, hs', ha⟩

/-- Settles O25: the response a step issues has legal shape, and the fetch leaves the rest of the interface legal. -/
theorem stepKeepsLegalState : Obligations.StepKeepsLegalState := by
  intro s s' hs h
  obtain rfl | ⟨r, s1, a, hf, rfl, ha⟩ := step_next_wf h
  · exact hs
  · obtain ⟨hm, hr, hq⟩ := fetch_frame hf
    exact State.respond_wf hs hm hr hq ha

/-- Settles O24: the range is part of a legal state, and no operation, phase or reset writes MAXLEN. -/
theorem maxLenIsConstant : Obligations.MaxLenIsConstant := by
  refine ⟨fun s hs => ⟨(State.wf_iff.mp hs).1, ?_⟩, fun _ _ => step_next_maxLen, fun _ _ => tick_next_maxLen,
    fun s => State.fresh_maxLen s.maxLen⟩
  exact Nat.le_sub_one_of_lt s.maxLen.isLt

/-- Settles O2: the default MAXLEN is in its range, and an idle unit with nothing pending is legal. -/
theorem resetIsLegal : Obligations.ResetIsLegal := State.fresh_wf Config.defaultMaxLen_least

/-! ## The response depends on the request alone (00_scope.md R17) -/

theorem exec_formatW_answers {i : Instr} {s : State} {t : Transaction} {m : Memory} {a : Response}
    (hw : isFormatW i = true) (ht : s.txn = some t) (ha : opOf i m = some a) : exec i s = .next (s.respond a) := by
  obtain ⟨w, e, eo⟩ := exec_formatW hw s
  rw [eo] at ha
  cases ha
  rw [e, serveW_next ht]

/-- MAXLEN and the operand buffer fix what an operation does: one response in every such state, or one refusal. -/
theorem exec_depends_on_operand (i : Instr) (maxLen : Length) (data : Memory) :
    (∃ a, ∀ (s : State) (t : Transaction), s.txn = some t → t.request.data = data → s.maxLen = maxLen →
      exec i s = .next (s.respond a)) ∨
    ∃ x, ∀ (s : State) (t : Transaction), s.txn = some t → t.request.data = data → s.maxLen = maxLen →
      exec i s = .refused x := by
  cases hw : isFormatW i with
  | true =>
    obtain ⟨a, ha⟩ := opOf_total (m := data) (.inl hw)
    exact .inl ⟨a, fun s t ht _ _ => exec_formatW_answers hw ht ha⟩
  | false =>
    have hexec := exec_formatB hw
    cases ho : i.srcOk with
    | false =>
      rw [ho] at hexec
      exact .inl ⟨_, fun s t ht _ _ => (hexec s).trans (serveB_noSource ht _ _)⟩
    | true =>
      rw [ho] at hexec
      by_cases hlong : maxLen.val < i.operandLen
      · exact .inr ⟨_, fun s t ht _ hm => (hexec s).trans (serveB_tooLong ht (by rwa [hm]) _)⟩
      · have hl : i.operandLen ≤ maxLen.val := by omega
        by_cases hs : data.size = i.operandLen
        · obtain ⟨a, ha⟩ := opOf_total (.inr hs)
          refine .inl ⟨a, fun s t ht hd hm => ?_⟩
          rw [hexec s, serveB_proceed ht (by rwa [hm]) (by rwa [hd]), hd, ha, State.answer]
        · exact .inr ⟨_, fun s t ht hd hm => (hexec s).trans (serveB_mismatch ht (by rwa [hm]) (by rwa [hd]) _)⟩

/-- MAXLEN and the oldest request fix what an idle unit does: one response in every such state, or one refusal. -/
theorem step_depends_on_request (maxLen : Length) (r : Request) :
    (∃ a, ∀ (s : State) (rest : List Request), s.txn = none → s.requests = r :: rest → s.maxLen = maxLen →
      step s = .next ((s.latch r rest).respond a)) ∨
    ∃ x, ∀ (s : State) (rest : List Request), s.txn = none → s.requests = r :: rest → s.maxLen = maxLen →
      step s = .refused x := by
  cases hd : decode r.header with
  | error _ => exact .inl ⟨_, fun s rest ht hr _ => step_illegal (fetch_idle ht hr) hd⟩
  | ok i =>
    obtain ⟨a, ha⟩ | ⟨x, hx⟩ := exec_depends_on_operand i maxLen r.data
    · exact .inl ⟨a, fun s rest ht hr hm => (step_decoded (fetch_idle ht hr) hd).trans (ha _ _ rfl rfl hm)⟩
    · exact .inr ⟨x, fun s rest ht hr hm => (step_decoded (fetch_idle ht hr) hd).trans (hx _ _ rfl rfl hm)⟩

/-- Settles O32: both units do what their common MAXLEN and oldest request fix. -/
theorem responseDependsOnRequestAlone : Obligations.ResponseDependsOnRequestAlone := by
  intro s1 s2 r rest1 rest2 ht1 ht2 hm hr1 hr2
  obtain ⟨a, ha⟩ | ⟨x, hx⟩ := step_depends_on_request s1.maxLen r
  · refine .inl ⟨a, ha s1 rest1 ht1 hr1 rfl, ?_⟩
    rw [ha s2 rest2 ht2 hr2 hm.symm, State.latch_respond, hm]
  · exact .inr ⟨x, hx s1 rest1 ht1 hr1 rfl, hx s2 rest2 ht2 hr2 hm.symm⟩

/-! ## Byte order (00_scope.md R13) -/

theorem be16_toNat (a b : Byte) : (be16 [a, b]).toNat = a.toNat * 256 + b.toNat := by
  have ha := a.isLt
  have hb := b.isLt
  simp only [be16, bigEndian, List.foldl, BitVec.toNat_ofNat]
  omega

theorem be32_toNat (a b c d : Byte) :
    (be32 [a, b, c, d]).toNat = a.toNat * 2 ^ 24 + b.toNat * 2 ^ 16 + c.toNat * 2 ^ 8 + d.toNat := by
  have ha := a.isLt
  have hb := b.isLt
  have hc := c.isLt
  have hd := d.isLt
  simp only [be32, bigEndian, List.foldl, BitVec.toNat_ofNat]
  omega

/-- The bytes of a word as quotients: byte k from the top is the word shifted down, modulo 256. -/
theorem bytes32_eq_ofNat (w : Word32) : bytes32 w =
    [BitVec.ofNat 8 (w.toNat / 2 ^ 24), BitVec.ofNat 8 (w.toNat / 2 ^ 16), BitVec.ofNat 8 (w.toNat / 2 ^ 8),
      BitVec.ofNat 8 w.toNat] := by
  simp only [bytes32, BitVec.extractLsb', Nat.shiftRight_eq_div_pow, Nat.pow_zero, Nat.div_one]

theorem be32_bytes32 (w : Word32) : be32 (bytes32 w) = w := by
  apply BitVec.eq_of_toNat_eq
  have hw := w.isLt
  rw [bytes32_eq_ofNat, be32_toNat]
  simp only [BitVec.toNat_ofNat]
  omega

theorem bytes32_be32 (a b c d : Byte) : bytes32 (be32 [a, b, c, d]) = [a, b, c, d] := by
  have ha := a.isLt
  have hb := b.isLt
  have hc := c.isLt
  have hd := d.isLt
  rw [bytes32_eq_ofNat, be32_toNat]
  simp only [List.cons.injEq, and_true]
  refine ⟨?_, ?_, ?_, ?_⟩ <;> apply BitVec.eq_of_toNat_eq <;> rw [BitVec.toNat_ofNat] <;> omega

/-- Settles O35: the numbers byte by byte, the concatenations of Laws/Operands, and the two round trips. -/
theorem assemblyPrimitives : Obligations.AssemblyPrimitives := by
  refine ⟨fun a b => ⟨be16_toNat a b, be16_two a b⟩, fun a b c d => ⟨be32_toNat a b c d, be32_four a b c d⟩,
    bytes32_eq_ofNat, be32_bytes32, fun bytes hlen => ?_⟩
  obtain ⟨a, b, c, d, rfl⟩ := List.length_eq_four.mp hlen
  exact bytes32_be32 a b c d

/-! ## The operand buffer as data (log 3) -/

@[simp] theorem Memory.toBytes_length (m : Memory) : m.toBytes.length = m.size := by simp [Memory.toBytes]

@[simp] theorem Memory.toBytes_getElem (m : Memory) {k : Nat} (h : k < m.toBytes.length) :
    m.toBytes[k] = m.byte k := by simp [Memory.toBytes]

theorem Memory.toBytes_ofBytes (bytes : List Byte) : (Memory.ofBytes bytes).toBytes = bytes := by
  refine List.ext_getElem (by simp) fun k _ hk => ?_
  rw [Memory.toBytes_getElem, Memory.ofBytes_byte, List.getD_eq_getElem _ _ hk]

/-- Canonical buffers of one size are equal when they agree inside: outside, both read 0. -/
theorem Memory.ext_of_wf {m m' : Memory} (h : m.wf = true) (h' : m'.wf = true) (hs : m.size = m'.size)
    (hb : ∀ a, a < m.size → m.byte a = m'.byte a) : m = m' := by
  have hall : ∀ a, m.byte a = m'.byte a := fun a => by
    by_cases ha : a < m.size
    · exact hb a ha
    · rw [Memory.byte_beyond h (by omega), Memory.byte_beyond h' (by omega)]
  obtain ⟨size, cells⟩ := m
  obtain ⟨size', cells'⟩ := m'
  obtain rfl : size = size' := hs
  obtain rfl : cells = cells' := cells_ext h h' hall
  rfl

/-- Settles O48: canonical form and read-back offset by offset, and extensionality of canonical buffers. -/
theorem buffersAreCanonical : Obligations.BuffersAreCanonical :=
  ⟨fun b => ⟨Memory.ofBytes_wf b, Memory.toBytes_ofBytes b⟩, fun _ _ => Memory.ext_of_wf⟩

end Sys2Proof.Machine

/-! # The family 10_state.md: idle steps, the types of results, legal phases

Each part is a layer of lemmas about the model's operations, and then the obligation they settle. -/

/-! ## The idle unit -/

namespace Sys2Proof.Machine

/-- Settles O4: nothing is fetched, and nothing leaves IDLE. -/
theorem idleStepChangesNothing : Obligations.IdleStepChangesNothing :=
  fun _ ht hr => ⟨step_unfetched (fetch_none ht hr), tick_none ht hr⟩

/-! ## The response of an operation and the type of its result (10_state.md R28, R29) -/

/-- The results an operation can give, as O31 lists them. -/
def HasResultType (i : Instr) (v : Result) : Prop :=
  match i with
  | .b2f32 _ _ => ∃ p, v = .float32 p
  | .b2u16 _ _ => ∃ x, v = .uint16 x
  | .b2u32 _ _ => ∃ x, v = .uint32 x
  | .f322b _ _ => ∃ b, v = .bytes b ∧ b.length = 4
  | .b2asc _ len => ∃ txt, v = .text txt ∧ txt.length = len
  | .vtx _ _ => ∃ x, v = .vertex x
  | .tri _ _ => ∃ x, v = .triangle x
  | .dec _ len => ∃ m, v = .mesh m ∧ m.header.length = 80 ∧ m.triangles.length = m.count.toNat ∧
      84 + 50 * m.count.toNat = len ∧ m.count.toNat ≤ 85899344

/-- A response of legal shape has a result exactly on OK. -/
theorem Response.result_eq_none_iff {a : Response} (h : a.wf = true) : a.result = none ↔ a.status ≠ .ok := by
  obtain ⟨status, result⟩ := a
  cases status <;> cases result
  · cases h
  · simp
  · simp
  · cases h

/-- An operation that checks its length and then reads gives as its result what it makes of the read. -/
theorem lengthChecked_result {c : Prop} [Decidable c] {k : ErrorKind} {α : Type} {o : Option α} {f : α → Result}
    {a : Response} {v : Result}
    (h : (if c then some (Response.error k) else o.map fun x => Response.ok (f x)) = some a)
    (hv : a.result = some v) : ∃ x, v = f x := by
  split at h
  · cases h; cases hv
  · obtain ⟨x, _, rfl⟩ := Option.map_eq_some_iff.mp h
    exact ⟨x, (Option.some.inj hv).symm⟩

/-- DEC's result is a Mesh whose count is the number of whole records of a file of 32-bit length (43_file_decoder.md
R155, R160). -/
theorem opDec_result {srcOk : Bool} {len : Nat} {m : Memory} {a : Response} {v : Result} (hs : m.size = len)
    (hl : len < 2 ^ 32) (h : opDec len m = some a) (hv : a.result = some v) : HasResultType (.dec srcOk len) v := by
  by_cases hshort : len < 84
  · rw [opDec_short m hshort] at h; cases h; cases hv
  · have hlong : 84 ≤ len := by omega
    by_cases hr : (len - 84) % 50 = 0
    · rw [opDec_exact m hs hlong hr] at h
      cases h; cases hv
      have hcount : (BitVec.ofNat 32 ((len - 84) / 50)).toNat = (len - 84) / 50 := by
        rw [BitVec.toNat_ofNat, Nat.mod_eq_of_lt (by omega)]
      exact ⟨_, rfl, by simp, by simp only [List.length_map, List.length_range, hcount],
        by simp only [hcount]; omega, by simp only [hcount]; omega⟩
    · rw [opDec_misaligned m hs hlong hr] at h; cases h; cases hv

/-- On a buffer of its declared length, a number of 32 bits, every result is of the operation's type. -/
theorem opOf_result {i : Instr} {m : Memory} {a : Response} {v : Result}
    (hs : isFormatW i = false → m.size = i.operandLen ∧ i.operandLen < 2 ^ 32) (h : opOf i m = some a)
    (hv : a.result = some v) : HasResultType i v := by
  cases i with
  | b2f32 _ _ => exact lengthChecked_result h hv
  | b2u16 _ _ => exact lengthChecked_result h hv
  | b2u32 _ _ => exact lengthChecked_result h hv
  | f322b _ _ => cases h; cases hv; exact ⟨_, rfl, rfl⟩
  | b2asc _ len =>
    have hm : m.size = len := (hs rfl).1
    rw [opOf, opB2asc_exact m hm] at h
    cases h; cases hv
    exact ⟨_, rfl, by simp⟩
  | vtx _ _ => exact lengthChecked_result h hv
  | tri _ _ => exact lengthChecked_result h hv
  | dec _ _ => exact opDec_result (hs rfl).1 (hs rfl).2 h hv

/-- An operation that answers a next state has issued SourceFailure, or its own answer on a buffer that, in format B, is
of the declared length, a number of 32 bits. -/
theorem exec_next_issued {i : Instr} {s s' : State} (h : exec i s = .next s') :
    ∃ a, s' = s.respond a ∧ (a = Response.error .sourceFailure ∨
      ∃ m, (isFormatW i = false → m.size = i.operandLen ∧ i.operandLen < 2 ^ 32) ∧ opOf i m = some a) := by
  obtain ⟨t, a, _, hs', ⟨_, _, ha⟩ | ⟨_, _, hl, hsize, hop⟩ | ⟨hw, hop⟩⟩ := exec_next h
  · exact ⟨a, hs', .inl ha⟩
  · exact ⟨a, hs', .inr ⟨_, fun _ => ⟨hsize, Config.len_lt hl⟩, hop⟩⟩
  · exact ⟨a, hs', .inr ⟨_, fun hb => absurd (hw.symm.trans hb) (by decide), hop⟩⟩

/-- Settles O31: the response issued is SourceFailure without a result, or the operation's own answer. -/
theorem resultTypeOfOperation : Obligations.ResultTypeOfOperation := by
  intro i s s' a h hresp
  obtain ⟨b, rfl, hb⟩ := exec_next_issued h
  obtain rfl : b = a := List.singleton_inj.mp (List.append_cancel_left hresp)
  obtain rfl | ⟨m, hs, hop⟩ := hb
  · exact ⟨Response.result_eq_none_iff (Response.error_wf _), fun v hv => nomatch hv⟩
  · exact ⟨Response.result_eq_none_iff (opOf_wf hs hop), fun v hv => opOf_result hs hop hv⟩

/-! ## The answer of a phased transaction, case by case -/

theorem phasedAnswer_illegal {maxLen : Length} {r : Request} {e : DecodeReject} (hd : decode r.header = .error e) :
    r.phasedAnswer maxLen = some (Response.error .illegalOp) := by simp [Request.phasedAnswer, hd]

theorem phasedAnswer_raise {maxLen : Length} {r : Request} {srcOk : Bool} {len : Nat} {k : ErrorKind}
    (hd : decode r.header = .ok (.dec srcOk len)) (hp : prologueB maxLen srcOk len r.data = .raise k) :
    r.phasedAnswer maxLen = some (Response.error k) := by simp [Request.phasedAnswer, hd, hp]

theorem decoding_of_proceed {maxLen : Length} {r : Request} {srcOk : Bool} {len : Nat}
    (hd : decode r.header = .ok (.dec srcOk len)) (hp : prologueB maxLen srcOk len r.data = .proceed) :
    r.decoding maxLen = true := by simp [Request.decoding, hd, hp]

/-- The buffer of a DEC transaction past its prologue has the header's length. -/
theorem decoding_size {maxLen : Length} {r : Request} (h : r.decoding maxLen = true) :
    r.data.size = fieldLen r.header := by
  obtain ⟨_, _, rfl, _, hs⟩ := decoding_iff.mp h
  exact hs

/-- DEC's answer from the values its phases have in hand: the text, and every window decoded. -/
theorem opDec_of_windows {m : Memory} {remLen : Nat} {header : Text} {ts : List Triangle}
    (ht : m.readText 0 Config.headerBytes = some header) (ha : aligned remLen = true)
    (hts : m.triangles (windowCount remLen) = some ts) :
    opDec (Config.minFileBytes + remLen) m = some (Response.ok (.mesh (meshOf header remLen ts))) := by
  have hrem : remainingLen (Config.minFileBytes + remLen) = remLen := Nat.add_sub_cancel_left ..
  simp [opDec, hrem, ht, ha, hts]

theorem triangles_succ {m : Memory} {n : Nat} {ts : List Triangle} {tri : Triangle} (hts : m.triangles n = some ts)
    (ht : m.triangleAt (windowOffset n) = some tri) : m.triangles (n + 1) = some (ts ++ [tri]) := by
  simp [Memory.triangles, hts, ht]

/-! ## The working values, phase by phase (10_state.md R26; 43_file_decoder.md R151 to R157) -/

/-- The working values between CHECK_ALIGN and DONE, with the windows below `i` decoded: what a legal TRIANGLE phase
holds, but for `i` being a window that is left. -/
structure WindowsDecoded (maxLen : Length) (r : Request) (header : Text) (remLen i : Nat) (ts : List Triangle) :
    Prop where
  decoding : r.decoding maxLen = true
  len_eq : fieldLen r.header = Config.minFileBytes + remLen
  text : r.data.readText 0 Config.headerBytes = some header
  aligned : aligned remLen = true
  triangles : r.data.triangles i = some ts

theorem Phase.wf_readHeader {maxLen : Length} {r : Request} : Phase.readHeader.wf maxLen r = true ↔
    r.decoding maxLen = true ∧ Config.minFileBytes ≤ fieldLen r.header := by simp [Phase.wf]

theorem Phase.wf_checkAlign {maxLen : Length} {r : Request} {header : Text} :
    (Phase.checkAlign header).wf maxLen r = true ↔ r.decoding maxLen = true ∧
      Config.minFileBytes ≤ fieldLen r.header ∧ r.data.readText 0 Config.headerBytes = some header := by
  simp [Phase.wf, and_assoc]

theorem Phase.wf_triangle {maxLen : Length} {r : Request} {header : Text} {remLen i : Nat} {ts : List Triangle} :
    (Phase.triangle header remLen i ts).wf maxLen r = true ↔
      WindowsDecoded maxLen r header remLen i ts ∧ i < windowCount remLen := by
  simp only [Phase.wf, Bool.and_eq_true, decide_eq_true_eq]
  constructor
  · rintro ⟨⟨⟨⟨⟨hd, hl⟩, ht⟩, ha⟩, hi⟩, hts⟩
    exact ⟨⟨hd, hl, ht, ha, hts⟩, hi⟩
  · rintro ⟨⟨hd, hl, ht, ha, hts⟩, hi⟩
    exact ⟨⟨⟨⟨⟨hd, hl⟩, ht⟩, ha⟩, hi⟩, hts⟩

theorem Phase.wf_done {maxLen : Length} {r : Request} {m : Mesh} : (Phase.done m).wf maxLen r = true ↔
    r.decoding maxLen = true ∧ r.phasedAnswer maxLen = some (Response.ok (.mesh m)) := by simp [Phase.wf]

theorem Phase.wf_error {maxLen : Length} {r : Request} {k : ErrorKind} : (Phase.error k).wf maxLen r = true ↔
    r.phasedAnswer maxLen = some (Response.error k) := by simp [Phase.wf]

/-- The error a DEC transaction past its prologue goes to is the one DEC answers. -/
theorem Phase.error_wf_of_opDec {maxLen : Length} {r : Request} {k : ErrorKind} (hd : r.decoding maxLen = true)
    (h : opDec (fieldLen r.header) r.data = some (Response.error k)) : (Phase.error k).wf maxLen r = true :=
  Phase.wf_error.mpr ((phasedAnswer_decoding hd).trans h)

/-- The Mesh of a legal DONE is of legal shape. -/
theorem Phase.done_response_wf {maxLen : Length} {r : Request} {m : Mesh} (h : (Phase.done m).wf maxLen r = true) :
    (Response.ok (.mesh m)).wf = true := by
  obtain ⟨hd, ha⟩ := Phase.wf_done.mp h
  rw [phasedAnswer_decoding hd] at ha
  exact opDec_wf (decoding_size hd) (fieldLen_lt _) ha

/-- With the windows below `i` decoded, the next phase is legal: TRIANGLE(i), or DONE when `i` is their number. -/
theorem WindowsDecoded.nextWindow_wf {maxLen : Length} {r : Request} {header : Text} {remLen i : Nat}
    {ts : List Triangle} (h : WindowsDecoded maxLen r header remLen i ts) (hi : i ≤ windowCount remLen) :
    (nextWindow header remLen i ts).wf maxLen r = true := by
  obtain ⟨hlt, e⟩ | ⟨hge, e⟩ := nextWindow_cases header remLen i ts
  · rw [e]
    exact Phase.wf_triangle.mpr ⟨h, hlt⟩
  · obtain rfl : i = windowCount remLen := by omega
    rw [e]
    refine Phase.wf_done.mpr ⟨h.decoding, ?_⟩
    rw [phasedAnswer_decoding h.decoding, h.len_eq]
    exact opDec_of_windows h.text h.aligned h.triangles

/-! ## The tick -/

/-- To put the transaction in progress into the phase it is in changes nothing. -/
theorem State.toPhase_phase {s : State} {t : Transaction} (ht : s.txn = some t) : s.toPhase t t.phase = s := by
  obtain ⟨_, _, txn, _⟩ := s
  obtain rfl : txn = some t := ht
  rfl

/-- Transaction `t` has moved to a legal phase of its request, or has ended in a response of legal shape. -/
def MovesLegally (t : Transaction) (s s' : State) : Prop :=
  (∃ p : Phase, s' = s.toPhase t p ∧ p.wf s.maxLen t.request = true) ∨ ∃ a, s' = s.respond a ∧ a.wf = true

theorem MovesLegally.toPhase {t : Transaction} {s : State} {p : Phase} (h : p.wf s.maxLen t.request = true) :
    MovesLegally t s (s.toPhase t p) := .inl ⟨p, rfl, h⟩

theorem MovesLegally.respond {t : Transaction} {s : State} {a : Response} (h : a.wf = true) :
    MovesLegally t s (s.respond a) := .inr ⟨a, rfl, h⟩

/-- A legal move of a transaction with a canonical buffer, in a state with the interface of a legal one, leaves a legal
state. -/
theorem MovesLegally.wf {t : Transaction} {s s1 s' : State} (h : MovesLegally t s1 s') (hs : s.wf = true)
    (ht : t.request.wf = true) (hm : s1.maxLen = s.maxLen) (hr : s1.responses = s.responses)
    (hq : ∀ q ∈ s1.requests, q ∈ s.requests) : s'.wf = true := by
  obtain ⟨p, rfl, hp⟩ | ⟨a, rfl, ha⟩ := h
  · obtain ⟨hmax, hreq, -, hresp⟩ := State.wf_iff.mp hs
    refine State.wf_iff.mpr ⟨by rwa [State.toPhase_maxLen, hm], fun q h => hreq q (hq q h), ?_, ?_⟩
    · rw [State.toPhase_txn, State.toPhase_maxLen, txnWf, Transaction.wf, ht, hp]; rfl
    · rwa [State.toPhase_responses, hr]
  · exact State.respond_wf hs hm hr hq ha

/-- One phase of a legal transaction: the values it adds are the ones the request gives. -/
theorem advance_movesLegally {t : Transaction} {s s' : State} (hp : t.phase.wf s.maxLen t.request = true)
    (h : advance t s = .next s') : MovesLegally t s s' := by
  obtain ⟨r, p⟩ := t
  cases p with
  | checkLen =>
    replace hp : r.decoding s.maxLen = true := hp
    simp only [advance] at h
    split at h <;> cases h <;> rename_i hlen
    · exact .toPhase (Phase.error_wf_of_opDec hp (opDec_short _ hlen))
    · exact .toPhase (Phase.wf_readHeader.mpr ⟨hp, not_lt.mp hlen⟩)
  | readHeader =>
    obtain ⟨hd, hlen⟩ := Phase.wf_readHeader.mp hp
    simp only [advance] at h
    split at h <;> cases h
    rename_i header htext
    exact .toPhase (Phase.wf_checkAlign.mpr ⟨hd, hlen, htext⟩)
  | checkAlign header =>
    obtain ⟨hd, hlen, htext⟩ := Phase.wf_checkAlign.mp hp
    simp only [advance] at h
    split at h <;> cases h <;> rename_i ha
    · have hr : (fieldLen r.header - 84) % 50 ≠ 0 := by simpa [aligned_remainingLen] using ha
      exact .toPhase (Phase.error_wf_of_opDec hd (opDec_misaligned _ (decoding_size hd) hlen hr))
    · have hw : WindowsDecoded s.maxLen r header (remainingLen (fieldLen r.header)) 0 [] :=
        ⟨hd, (Nat.add_sub_cancel' hlen).symm, htext, by simpa using ha, rfl⟩
      exact .toPhase (hw.nextWindow_wf (Nat.zero_le _))
  | triangle header remLen i ts =>
    obtain ⟨hw, hi⟩ := Phase.wf_triangle.mp hp
    simp only [advance] at h
    split at h <;> cases h
    rename_i tri htri
    exact .toPhase (WindowsDecoded.nextWindow_wf { hw with triangles := triangles_succ hw.triangles htri } hi)
  | done mesh => cases h; exact .respond (Phase.done_response_wf hp)
  | error k => cases h; exact .respond (Response.error_wf k)

/-- A DEC transaction leaves IDLE for a legal phase: CHECK_LEN when its prologue proceeds, ERROR when it raises. -/
theorem enterDec_movesLegally {srcOk : Bool} {len : Nat} {r : Request} {s s' : State}
    (ht : s.txn = some (Transaction.start r)) (hd : decode r.header = .ok (.dec srcOk len))
    (h : enterDec srcOk len r s = .next s') : MovesLegally (Transaction.start r) s s' := by
  unfold enterDec at h
  split at h <;> cases h <;> rename_i hpro
  · exact .toPhase (Phase.wf_error.mpr (phasedAnswer_raise hd hpro))
  · exact .inl ⟨.checkLen, (State.toPhase_phase ht).symm, decoding_of_proceed hd hpro⟩

/-- The tick out of IDLE: a header that selects no operation goes to ERROR, DEC begins its phases, and every other
operation is answered whole. -/
theorem enter_movesLegally {r : Request} {s s' : State} (ht : s.txn = some (Transaction.start r))
    (h : enter r s = .next s') : MovesLegally (Transaction.start r) s s' := by
  unfold enter at h
  split at h
  · rename_i hd
    cases h
    exact .toPhase (Phase.wf_error.mpr (phasedAnswer_illegal hd))
  · rename_i hd
    exact enterDec_movesLegally ht hd h
  · obtain ⟨a, rfl, ha⟩ := exec_next_wf h
    exact .respond ha

/-- Settles O26: a tick moves the transaction in progress, or the one just latched, legally. -/
theorem tickKeepsLegalState : Obligations.TickKeepsLegalState := by
  intro s s' hs h
  obtain ⟨-, hreq, htxn, -⟩ := State.wf_iff.mp hs
  cases ht : s.txn with
  | some t =>
    rw [tick_busy ht] at h
    rw [ht, txnWf, Transaction.wf, Bool.and_eq_true] at htxn
    exact (advance_movesLegally htxn.2 h).wf hs htxn.1 rfl rfl fun _ hq => hq
  | none =>
    cases hr : s.requests with
    | nil => rw [tick_none ht hr] at h; cases h; exact hs
    | cons r rest =>
      rw [tick_idle ht hr] at h
      rw [hr] at hreq
      exact (enter_movesLegally rfl h).wf hs (hreq r List.mem_cons_self) rfl rfl
        fun _ hq => hr ▸ List.mem_cons_of_mem _ hq

end Sys2Proof.Machine

/-! # The family 20_memory.md: frames, reads inside the buffer, and where each value is read

Each part is a layer of lemmas about the model's operations, and then the obligations they settle. -/

/-! ## Frames (20_memory.md R40, R50) -/

namespace Sys2Proof.Machine

/-- Settles O27: an operation that answers a next state has issued one response, and nothing else. -/
theorem operationFrame : Obligations.OperationFrame := by
  intro i s s' h
  obtain ⟨_, a, _, rfl, _⟩ := exec_next h
  exact ⟨rfl, rfl, ⟨a, rfl⟩, rfl, fun _ r hr => ⟨r, hr, rfl, rfl, fun _ => rfl⟩⟩

/-- A tick inside a transaction moves it to another phase; DONE and ERROR alone issue, each its own response. -/
theorem advance_next_issued {t : Transaction} {s s' : State} (h : advance t s = .next s') :
    (∃ p, s' = s.toPhase t p) ∨ ∃ a, s' = s.respond a ∧
      ((∃ m, t.phase = .done m ∧ a = Response.ok (.mesh m)) ∨ ∃ k, t.phase = .error k ∧ a = Response.error k) := by
  cases hp : t.phase with
  | done m =>
    simp only [advance, hp] at h
    cases h
    exact .inr ⟨_, rfl, .inl ⟨m, rfl, rfl⟩⟩
  | error k =>
    simp only [advance, hp] at h
    cases h
    exact .inr ⟨_, rfl, .inr ⟨k, rfl, rfl⟩⟩
  | checkLen | readHeader | checkAlign _ | triangle _ _ _ _ =>
    simp only [advance, hp] at h
    split at h <;> cases h <;> exact .inl ⟨_, rfl⟩

/-- Settles O51: a move to another phase keeps the latched request, and a response ends the transaction. -/
theorem tickFrame : Obligations.TickFrame := by
  intro s s' t ht h
  rw [tick_busy ht] at h
  obtain ⟨p, rfl⟩ | ⟨a, rfl, ha⟩ := advance_next_issued h
  · exact ⟨rfl, rfl, .inl ⟨_, rfl, rfl, rfl, fun _ => rfl⟩⟩
  · exact ⟨rfl, rfl, .inr ⟨rfl, a, rfl, ha⟩⟩

/-! ## No read outside the operand buffer (20_memory.md R47) -/

/-- A format B operation that has an answer on every buffer of its length does not fault. -/
theorem serveB_ne_fault {srcOk : Bool} {len : Nat} {op : Memory → Option Response}
    (hop : ∀ m : Memory, m.size = len → ∃ a, op m = some a) (s : State) (f : Fault) :
    serveB srcOk len op s ≠ .fault f := by
  obtain ⟨_, e⟩ | ⟨t, _, ⟨_, e⟩ | ⟨_, _, e⟩ | ⟨_, _, _, e⟩ | ⟨_, _, hs, e⟩⟩ := serveB_cases srcOk len op s
  · simp [e]
  · simp [e]
  · simp [e]
  · simp [e]
  · obtain ⟨a, ha⟩ := hop _ hs
    simp [e, ha, State.answer]

theorem exec_ne_fault (i : Instr) (s : State) (f : Fault) : exec i s ≠ .fault f := by
  cases hw : isFormatW i with
  | false =>
    rw [exec_formatB hw]
    exact serveB_ne_fault (fun _ hm => opOf_total (.inr hm)) s f
  | true =>
    obtain ⟨w, e, _⟩ := exec_formatW hw s
    rw [e, serveW]
    split <;> simp

theorem step_ne_fault (s : State) (f : Fault) : step s ≠ .fault f := by
  cases hf : fetch s with
  | none => simp [step_unfetched hf]
  | some p =>
    cases hd : decode p.1.header with
    | error _ => simp [step_illegal hf hd]
    | ok i =>
      rw [step_decoded hf hd]
      exact exec_ne_fault i p.2 f

theorem enter_ne_fault (r : Request) (s : State) (f : Fault) : enter r s ≠ .fault f := by
  unfold enter
  split
  · simp
  · unfold enterDec
    split <;> simp
  · exact exec_ne_fault _ _ _

/-- A window below the count of a buffer lies inside it. -/
theorem windowOffset_inside {remLen i : Nat} (h : i < windowCount remLen) :
    windowOffset i + 50 ≤ Config.minFileBytes + remLen := by
  simp only [windowCount, windowOffset, Config.triBytes] at h ⊢
  omega

/-- The two phases that read, HEADER and TRIANGLE, are legal only on a buffer that holds what they read. -/
theorem advance_ne_fault {t : Transaction} {s : State} (hp : t.phase.wf s.maxLen t.request = true) (f : Fault) :
    advance t s ≠ .fault f := by
  obtain ⟨r, p⟩ := t
  cases p with
  | readHeader =>
    obtain ⟨hd, hlen⟩ := Phase.wf_readHeader.mp hp
    have hin : 0 + Config.headerBytes ≤ r.data.size := by
      rw [decoding_size hd]
      exact le_trans (by decide) hlen
    simp [advance, r.data.readText_inside hin]
  | triangle header remLen i ts =>
    obtain ⟨hw, hi⟩ := Phase.wf_triangle.mp hp
    have hin : windowOffset i + 50 ≤ r.data.size := by
      rw [decoding_size hw.decoding, hw.len_eq]
      exact windowOffset_inside hi
    simp [advance, r.data.triangleAt_inside hin]
  | checkLen | checkAlign _ =>
    simp only [advance]
    split <;> simp
  | done _ | error _ => simp [advance]

theorem tick_ne_fault {s : State} (hs : s.wf = true) (f : Fault) : tick s ≠ .fault f := by
  cases ht : s.txn with
  | some t =>
    obtain ⟨-, -, htxn, -⟩ := State.wf_iff.mp hs
    rw [ht, txnWf, Transaction.wf, Bool.and_eq_true] at htxn
    rw [tick_busy ht]
    exact advance_ne_fault htxn.2 f
  | none =>
    cases hr : s.requests with
    | nil => simp [tick_none ht hr]
    | cons r rest =>
      rw [tick_idle ht hr]
      exact enter_ne_fault r _ f

/-- Settles O28: an operation has an answer on every buffer its prologue lets through, and a legal phase has its
window. -/
theorem noReadOutsideBuffer : Obligations.NoReadOutsideBuffer :=
  ⟨exec_ne_fault, step_ne_fault, fun _ f hs => tick_ne_fault hs f⟩

/-! ## Where each value is read (20_memory.md R54) -/

theorem Memory.vertexView_component (m : Memory) (o : Nat) {c : Nat} (hc : c < 3) :
    (m.vertexView o).component c = some (m.wordView (o + 4 * c)) := by
  match c, hc with
  | 0, _ => rfl
  | 1, _ => rfl
  | 2, _ => rfl

theorem Memory.triangleView_slot (m : Memory) (o : Nat) {j : Nat} (hj : j < 4) :
    (m.triangleView o).slot j = some (m.vertexView (o + 12 * j)) := by
  match j, hj with
  | 0, _ => rfl
  | 1, _ => rfl
  | 2, _ => rfl
  | 3, _ => rfl

theorem Memory.triangleView_slot_component (m : Memory) (o : Nat) {j c : Nat} (hj : j < 4) (hc : c < 3) :
    ((m.triangleView o).slot j).bind (fun v => v.component c) = some (m.wordView (o + 12 * j + 4 * c)) := by
  rw [m.triangleView_slot o hj]
  exact m.vertexView_component _ hc

/-- A Vertex that VTX gives is the one at offset 0 of its 12 bytes. -/
theorem opVtx_vertex {data : Memory} {len : Nat} {v : Vertex} (hs : data.size = len)
    (h : opVtx len data = some (Response.ok (.vertex v))) : v = data.vertexView 0 := by
  by_cases hl : len = 12
  · subst hl
    rw [opVtx_exact data hs] at h
    cases h
    rfl
  · rw [opVtx_wrong data hl] at h
    cases h

/-- A Triangle that TRI gives is the one at offset 0 of its 50 bytes. -/
theorem opTri_triangle {data : Memory} {len : Nat} {t : Triangle} (hs : data.size = len)
    (h : opTri len data = some (Response.ok (.triangle t))) : t = data.triangleView 0 := by
  by_cases hl : len = 50
  · subst hl
    rw [opTri_exact data hs] at h
    cases h
    rfl
  · rw [opTri_wrong data hl] at h
    cases h

/-- The Mesh of a whole file: its 80 first bytes and the triangle of every window (43_file_decoder.md R156). -/
def Memory.meshView (m : Memory) : Mesh :=
  { header := (List.range 80).map m.byte, count := BitVec.ofNat 32 ((m.size - 84) / 50),
    triangles := (List.range ((m.size - 84) / 50)).map fun k => m.triangleView (84 + 50 * k) }

/-- A Mesh that DEC gives is the one its whole buffer holds, and the buffer has the fixed prefix. -/
theorem opDec_mesh {data : Memory} {len : Nat} {m : Mesh} (hs : data.size = len)
    (h : opDec len data = some (Response.ok (.mesh m))) : 84 ≤ len ∧ m = data.meshView := by
  by_cases hshort : len < 84
  · rw [opDec_short data hshort] at h
    cases h
  · have hlong : 84 ≤ len := by omega
    by_cases hr : (len - 84) % 50 = 0
    · rw [opDec_exact data hs hlong hr] at h
      subst hs
      cases h
      exact ⟨hlong, rfl⟩
    · rw [opDec_misaligned data hs hlong hr] at h
      cases h

theorem Memory.meshView_header (m : Memory) {i : Nat} (hi : i < 80) : m.meshView.header[i]? = some (m.byte i) := by
  simp [Memory.meshView, hi]

/-- The count is at most the number of whole windows. -/
theorem Memory.meshView_count_le (m : Memory) : m.meshView.count.toNat ≤ (m.size - 84) / 50 := by
  rw [Memory.meshView, BitVec.toNat_ofNat]
  exact Nat.mod_le _ _

theorem Memory.meshView_triangle (m : Memory) {k : Nat} (hk : k < m.meshView.count.toNat) :
    m.meshView.triangles[k]? = some (m.triangleView (84 + 50 * k)) := by
  have hwin : k < (m.size - 84) / 50 := lt_of_lt_of_le hk m.meshView_count_le
  simp [Memory.meshView, hwin]

/-- Settles O41: each result is the view of its buffer, and a view's parts stand where R54 says. -/
theorem effectiveAddresses : Obligations.EffectiveAddresses := by
  refine ⟨fun data len m hs h => ?_, fun data len t hs h => ?_, fun data len v hs h c hc => ?_⟩
  · obtain ⟨_, rfl⟩ := opDec_mesh hs h
    exact ⟨fun _ hi => data.meshView_header hi, fun k hk =>
      ⟨_, data.meshView_triangle hk, rfl, fun _ _ hj hc => data.triangleView_slot_component _ hj hc⟩⟩
  · obtain rfl := opTri_triangle hs h
    exact ⟨rfl, fun j c hj hc => by simpa using data.triangleView_slot_component 0 hj hc⟩
  · obtain rfl := opVtx_vertex hs h
    simpa using data.vertexView_component 0 hc

/-! ## The declared count reaches no output (20_memory.md R60) -/

/-- DEC reads nothing at offsets 80 to 83. -/
theorem opDec_congr {len : Nat} {m m' : Memory} (hs : m.size = len) (h : sameButDeclaredCount m m') :
    opDec len m = opDec len m' := by
  obtain ⟨hsize, hb⟩ := h
  have hs' : m'.size = len := hsize.symm.trans hs
  by_cases hshort : len < 84
  · rw [opDec_short m hshort, opDec_short m' hshort]
  · have hlong : 84 ≤ len := by omega
    by_cases hr : (len - 84) % 50 = 0
    · have hhead : (List.range 80).map m.byte = (List.range 80).map m'.byte :=
        List.map_congr_left fun a ha => hb a (.inl (List.mem_range.mp ha))
      have htri : ∀ k, m.triangleView (84 + 50 * k) = m'.triangleView (84 + 50 * k) := fun k =>
        Memory.triangleView_congr fun _ _ => hb _ (.inr (by omega))
      rw [opDec_exact m hs hlong hr, opDec_exact m' hs' hlong hr]
      simp only [hhead, htri]
    · rw [opDec_misaligned m hs hlong hr, opDec_misaligned m' hs' hlong hr]

/-- Two transactions that differ in their buffers alone, of one size and with one answer where the size is the declared
length, are served alike: the buffer goes with its transaction. -/
theorem serveB_latch_congr {s s' : State} {r r' : Request} {srcOk : Bool} {len : Nat} {op : Memory → Option Response}
    (ht : s.txn = some (Transaction.start r)) (ht' : s'.txn = some (Transaction.start r'))
    (hm : s.maxLen = s'.maxLen) (hresp : ∀ a, s.respond a = s'.respond a) (hsize : r.data.size = r'.data.size)
    (hop : r.data.size = len → op r.data = op r'.data) : serveB srcOk len op s = serveB srcOk len op s' := by
  cases srcOk with
  | false => rw [serveB_noSource ht, serveB_noSource ht', State.raise, State.raise, hresp]
  | true =>
    by_cases hf : s.maxLen.val < len
    · rw [serveB_tooLong ht hf, serveB_tooLong ht' (hm ▸ hf)]
    · have hl : len ≤ s.maxLen.val := by omega
      by_cases hs : r.data.size = len
      · rw [serveB_proceed ht hl hs, serveB_proceed ht' (hm ▸ hl) (hsize ▸ hs)]
        simp only [Transaction.start_request, hop hs]
        cases op r'.data with
        | none => rfl
        | some a => simp only [State.answer, hresp]
      · rw [serveB_mismatch ht hl hs, serveB_mismatch ht' (hm ▸ hl) (hsize ▸ hs)]

theorem decode_op8 {h : Header} (hop : fieldOp h = 0x8) :
    (∃ e, decode h = .error e) ∨ decode h = .ok (.dec (fieldSrcOk h) (fieldLen h)) := by
  by_cases hr : fieldRsv h = 0
  · rw [decode_unreserved hr, hop]
    exact .inr rfl
  · exact .inl ⟨_, decode_reserved hr⟩

/-- Settles O44: DEC's length check stands first, and no read of DEC touches the four bytes. -/
theorem declaredCountReachesNoOutput : Obligations.DeclaredCountReachesNoOutput := by
  refine ⟨fun s t len ht hl hs hshort => ?_, fun s h data data' rest ht hop hsame => ?_⟩
  · rw [exec_formatB rfl]
    refine (serveB_proceed ht hl hs _).trans ?_
    rw [opOf, opDec_short _ hshort]
    rfl
  · have hf := fetch_idle (s := { s with requests := ⟨h, data⟩ :: rest }) ht rfl
    have hf' := fetch_idle (s := { s with requests := ⟨h, data'⟩ :: rest }) ht rfl
    obtain ⟨e, hd⟩ | hd := decode_op8 hop
    · rw [step_illegal hf hd, step_illegal hf' hd]
      rfl
    · rw [step_decoded hf hd, step_decoded hf' hd, exec_formatB rfl, exec_formatB rfl]
      exact serveB_latch_congr rfl rfl rfl (fun _ => rfl) hsame.1 fun hs => opDec_congr hs hsame

/-! ## What a unit answers to a line with a buffer (30_encoding.md R83) -/

/-- The header of a format B operation decodes to that operation, with its length as far as it fits 32 bits. -/
theorem decode_encode_formatB {i : Instr} (hB : isFormatW i = false) :
    ∃ j, decode (encode i) = .ok j ∧ isFormatW j = false ∧ j.srcOk = i.srcOk ∧
      j.operandLen = i.operandLen % 2 ^ 32 ∧ (j.operandLen = i.operandLen → j = i) := by
  obtain ⟨hop, hok, hrsv, harg⟩ := Sys2Proof.Laws.EncodeFields.all i
  rw [decode_unreserved hrsv, hop]
  cases i with
  | f322b _ _ => cases hB
  | b2f32 _ _ | b2u16 _ _ | b2u32 _ _ | b2asc _ _ | vtx _ _ | tri _ _ | dec _ _ =>
    exact ⟨_, rfl, rfl, hok, (congrArg BitVec.toNat harg).trans (BitVec.toNat_ofNat ..), fun e => congrArg₂ _ hok e⟩

/-- A unit just reset answers a format B request whose source delivered, on a buffer of the operation's length, exactly
when the length is at most MAXLEN, and then with the operation's own answer. -/
theorem answers_formatB_iff {maxLen : Length} {i : Instr} {data : Memory} {a : Response} (hB : isFormatW i = false)
    (hok : i.srcOk = true) (hs : data.size = i.operandLen) :
    Answers maxLen ⟨encode i, data⟩ a ↔ i.operandLen ≤ maxLen.val ∧ opOf i data = some a := by
  obtain ⟨j, hd, hjB, hjok, hjlen, hj⟩ := decode_encode_formatB hB
  have hf := fetch_idle (s := (State.fresh maxLen).issue ⟨encode i, data⟩) rfl rfl
  rw [Answers, step_decoded hf hd, exec_formatB hjB, hjok, hok]
  constructor
  · intro h
    obtain ⟨t, b, ht, hb, ⟨hno, _⟩ | ⟨_, hl, hsize, hop⟩⟩ := serveB_next h
    · cases hno
    · cases ht
      obtain rfl := hj (hsize.symm.trans hs)
      obtain rfl : a = b := List.singleton_inj.mp (congrArg State.responses hb)
      exact ⟨hl, hop⟩
  · rintro ⟨hl, hop⟩
    obtain rfl := hj (hjlen.trans (Nat.mod_eq_of_lt (Config.len_lt hl)))
    rw [serveB_proceed rfl hl hs, Transaction.start_request, hop]
    rfl

/-! ## A window of a byte sequence as a buffer of its own -/

/-- At offset k the window holds what the whole sequence holds k bytes after the window's start. -/
theorem Memory.ofBytes_window_byte (bytes : List Byte) (o : Nat) {n k : Nat} (hk : k < n) :
    (Memory.ofBytes ((bytes.drop o).take n)).byte (0 + k) = (Memory.ofBytes bytes).byte (o + k) := by
  simp only [Memory.ofBytes_byte, List.getD_eq_getElem?_getD, Nat.zero_add, List.getElem?_take_of_lt hk,
    List.getElem?_drop]

theorem Memory.ofBytes_window_halfView (bytes : List Byte) (o : Nat) :
    (Memory.ofBytes ((bytes.drop o).take 2)).halfView 0 = (Memory.ofBytes bytes).halfView o :=
  Memory.halfView_congr fun _ hk => Memory.ofBytes_window_byte bytes o hk

theorem Memory.ofBytes_window_triangleView (bytes : List Byte) (o : Nat) :
    (Memory.ofBytes ((bytes.drop o).take 50)).triangleView 0 = (Memory.ofBytes bytes).triangleView o :=
  Memory.triangleView_congr fun _ hk => Memory.ofBytes_window_byte bytes o hk

/-! ## One buffer seen in several widths (20_memory.md R44) -/

/-- A word is its two halves, the one at the lower offset more significant. -/
theorem Memory.wordView_eq_halves (m : Memory) (o : Nat) : m.wordView o = m.halfView o ++ m.halfView (o + 2) := by
  rw [Memory.wordView, BitVec.append_assoc]
  rfl

/-- Settles O38: the halves of the word at offset 0 are the half at offset 0 and the one at offset 2, which are those of
the two windows. -/
theorem mixedWidthViews : Obligations.MixedWidthViews := by
  intro maxLen a b c d hmax
  have h2 : 2 ≤ maxLen.val := le_trans (by decide) hmax
  have h4 : 4 ≤ maxLen.val := le_trans (by decide) hmax
  have hhigh := Memory.ofBytes_window_halfView [a, b, c, d] 0
  have hlow := Memory.ofBytes_window_halfView [a, b, c, d] 2
  refine ⟨(Memory.ofBytes [a, b, c, d]).wordView 0, ?_, ?_, ?_, ?_⟩
  · exact (answers_formatB_iff rfl rfl rfl).mpr ⟨h4, opB2f32_exact _ rfl⟩
  · exact (answers_formatB_iff rfl rfl rfl).mpr ⟨h4, opB2u32_exact _ rfl⟩
  · rw [Memory.wordView_eq_halves, BitVec.extractLsb'_append_eq_left, ← hhigh]
    exact (answers_formatB_iff rfl rfl rfl).mpr ⟨h2, opB2u16_exact _ rfl⟩
  · rw [Memory.wordView_eq_halves, BitVec.extractLsb'_append_eq_right, ← hlow]
    exact (answers_formatB_iff rfl rfl rfl).mpr ⟨h2, opB2u16_exact _ rfl⟩

/-! ## Element k of a Mesh and TRI on window k (20_memory.md R41; 43_file_decoder.md R155) -/

/-- Settles O42: the window lies inside the file, and the triangle read from either is the same. -/
theorem decElementsAreTriAnswers : Obligations.DecElementsAreTriAnswers := by
  intro maxLen file m k h hk
  obtain ⟨(hl : file.length ≤ maxLen.val), hop⟩ :=
    (answers_formatB_iff (i := .dec true file.length) rfl rfl rfl).mp h
  obtain ⟨hlong, rfl⟩ := opDec_mesh (Memory.ofBytes_size file) hop
  have hcount := (Memory.ofBytes file).meshView_count_le
  rw [Memory.ofBytes_size] at hcount
  have hwin : ((file.drop (84 + 50 * k)).take 50).length = 50 := by
    rw [List.length_take, List.length_drop]
    omega
  have hwinMax : 50 ≤ maxLen.val := by omega
  refine ⟨_, Memory.meshView_triangle _ hk, (answers_formatB_iff rfl rfl rfl).mpr ⟨hwin.trans_le hwinMax, ?_⟩⟩
  rw [opOf, hwin, opTri_exact _ hwin, Memory.ofBytes_window_triangleView]

end Sys2Proof.Machine

/-! # The family 30_encoding.md: the header and its operations, status codes, float32 patterns

Each part is a layer of lemmas about the model's operations, and then the obligations they settle. -/

/-! ## Decoding and encoding (30_encoding.md R70 to R72) -/

namespace Sys2Proof

/-- The converse of `decode_ok_fields`: a length that fits 32 bits is the number its `arg` holds, so the fields fix a
well-formed operation. -/
theorem decode_eq_ok_iff {h : Header} {i : Instr} : decode h = .ok i ↔
    fieldRsv h = 0 ∧ fieldOp h = i.op ∧ fieldSrcOk h = i.srcOk ∧ fieldArg h = i.arg ∧ i.wellFormed = true := by
  refine ⟨decode_ok_fields, ?_⟩
  rintro ⟨hrsv, hop, hok, harg, hw⟩
  rw [decode_unreserved hrsv, hop]
  cases i with
  | f322b _ _ => exact congrArg Except.ok (congrArg₂ _ hok harg)
  | b2f32 _ _ | b2u16 _ _ | b2u32 _ _ | b2asc _ _ | vtx _ _ | tri _ _ | dec _ _ =>
    exact congrArg Except.ok (congrArg₂ _ hok ((congrArg BitVec.toNat harg).trans (len_toNat hw)))

/-- Settles O5: the encoded header has the operation's parts in its fields. -/
theorem decodeOfEncode : Obligations.DecodeOfEncode := by
  intro i hw
  obtain ⟨hop, hok, hrsv, harg⟩ := Laws.EncodeFields.all i
  exact decode_eq_ok_iff.mpr ⟨hrsv, hop, hok, harg, hw⟩

/-- Settles O6: a header with no reserved bit set is its fields, packed. -/
theorem encodeOfDecode : Obligations.EncodeOfDecode := by
  intro h i hd
  obtain ⟨hrsv, hop, hok, harg, hw⟩ := decode_eq_ok_iff.mp hd
  refine ⟨?_, hw⟩
  rw [encode_eq_packHeader, ← hop, ← hok, ← harg, packHeader_fields h hrsv]

/-! ## The match and mask table (30_encoding.md R71) -/

theorem fieldOp_and_opMask (h : Header) : fieldOp (h &&& opMask) = fieldOp h :=
  BitVec.extractLsb'_and.trans BitVec.and_allOnes

theorem fieldRsv_and_opMask (h : Header) : fieldRsv (h &&& opMask) = fieldRsv h :=
  BitVec.extractLsb'_and.trans BitVec.and_allOnes

theorem fieldArg_and_opMask (h : Header) : fieldArg (h &&& opMask) = 0 :=
  BitVec.extractLsb'_and.trans BitVec.and_zero

theorem fieldSrcOk_and_opMask (h : Header) : fieldSrcOk (h &&& opMask) = false :=
  BitVec.getLsbD_and.trans (Bool.and_false _)

/-- The reserved-bits test and the code, folded into one comparison. -/
theorem and_opMask_eq_iff {h : Header} {op : BitVec 4} :
    h &&& opMask = packHeader 0 false op ↔ fieldRsv h = 0 ∧ fieldOp h = op := by
  constructor
  · intro e
    rw [← fieldRsv_and_opMask, ← fieldOp_and_opMask, e]
    exact ⟨fieldRsv_packHeader _ _ _, fieldOp_packHeader _ _ _⟩
  · rintro ⟨hrsv, rfl⟩
    rw [← packHeader_fields (h &&& opMask) ((fieldRsv_and_opMask h).trans hrsv), fieldArg_and_opMask,
      fieldSrcOk_and_opMask, fieldOp_and_opMask]

/-- The row of the table that stands for an operation. -/
def Instr.row (i : Instr) : OpRow := ⟨i.mnemonic, packHeader 0 false i.op, opMask⟩

theorem Instr.row_selects_iff {i : Instr} {h : Header} :
    i.row.selects h = true ↔ fieldRsv h = 0 ∧ fieldOp h = i.op :=
  decide_eq_true_iff.trans and_opMask_eq_iff

/-- The table is written out as the rows of the eight operations, with any `src_ok` and `arg`. -/
theorem opTable_eq_map_row : opTable = [Instr.b2f32 false 0, .b2u16 false 0, .b2u32 false 0, .f322b false 0,
    .b2asc false 0, .vtx false 0, .tri false 0, .dec false 0].map Instr.row := rfl

theorem mem_opTable_iff {row : OpRow} : row ∈ opTable ↔ ∃ i : Instr, i.row = row := by
  constructor
  · intro hrow
    obtain ⟨i, _, hi⟩ := List.mem_map.mp (opTable_eq_map_row ▸ hrow)
    exact ⟨i, hi⟩
  · rintro ⟨i, rfl⟩
    cases i <;> simp [opTable_eq_map_row, Instr.row, Instr.mnemonic, Instr.op]

/-- An operation's row selects exactly the headers that decode to an operation with its code. -/
theorem Instr.row_selects_iff_decode {i : Instr} {h : Header} :
    i.row.selects h = true ↔ ∃ j, decode h = .ok j ∧ j.op = i.op := by
  rw [Instr.row_selects_iff]
  constructor
  · rintro ⟨hrsv, hop⟩
    rw [decode_unreserved hrsv, hop]
    cases i <;> exact ⟨_, rfl, rfl⟩
  · rintro ⟨j, hd, hop⟩
    obtain ⟨hrsv, hj, _⟩ := decode_eq_ok_iff.mp hd
    exact ⟨hrsv, hj.trans hop⟩

/-- All rows have one mask, and no two have one pattern. -/
theorem opTable_row_unique {h : Header} {r1 r2 : OpRow} (h1 : r1 ∈ opTable) (h2 : r2 ∈ opTable)
    (hs1 : r1.selects h = true) (hs2 : r2.selects h = true) : r1 = r2 := by
  have hmask : ∀ row ∈ opTable, row.mask = opMask := by decide
  have hpattern : ∀ r ∈ opTable, ∀ r' ∈ opTable, r.pattern = r'.pattern → r = r' := by decide
  refine hpattern r1 h1 r2 h2 ?_
  rw [← of_decide_eq_true hs1, ← of_decide_eq_true hs2, hmask r1 h1, hmask r2 h2]

/-- Settles O7: the rows are those of the operations, and the row of a decoded operation is the one that selects. -/
theorem decodeAgreesWithTable : Obligations.DecodeAgreesWithTable := by
  have hselects : ∀ {h i}, decode h = .ok i → i.row.selects h = true :=
    fun hd => Instr.row_selects_iff_decode.mpr ⟨_, hd, rfl⟩
  refine ⟨fun h => ⟨?_, ?_⟩, ?_, fun _ _ _ => opTable_row_unique⟩
  · rintro ⟨i, hd⟩
    exact ⟨i.row, mem_opTable_iff.mpr ⟨i, rfl⟩, hselects hd⟩
  · rintro ⟨row, hrow, hs⟩
    obtain ⟨i, rfl⟩ := mem_opTable_iff.mp hrow
    obtain ⟨j, hd, _⟩ := Instr.row_selects_iff_decode.mp hs
    exact ⟨j, hd⟩
  · intro h i row hd hrow hs
    rw [opTable_row_unique hrow (mem_opTable_iff.mpr ⟨i, rfl⟩) hs (hselects hd)]
    rfl

/-! ## The header as a number (30_encoding.md R83) -/

/-- The three parts of a packed header do not overlap, so joining them adds their numbers. -/
theorem packHeader_toNat (arg : Word32) (srcOk : Bool) (op : BitVec 4) :
    (packHeader arg srcOk op).toNat = arg.toNat * 2 ^ 32 + srcOk.toNat * 2 ^ 4 + op.toNat := by
  have hop : op.toNat < 2 ^ 4 := op.isLt
  have hok : srcOk.toNat < 2 := srcOk.toNat_lt
  have hlow : 2 ^ 4 * srcOk.toNat + op.toNat < 2 ^ 32 := by omega
  have harg : arg.toNat < 2 ^ 32 := arg.isLt
  calc (packHeader arg srcOk op).toNat
      = 2 ^ 32 * arg.toNat ||| (2 ^ 4 * srcOk.toNat ||| op.toNat) := by
        simp only [packHeader, BitVec.toNat_or, BitVec.toNat_shiftLeft, BitVec.toNat_setWidth, BitVec.toNat_ofBool,
          Nat.shiftLeft_eq, Nat.or_assoc]
        congr 2 <;> omega
    _ = 2 ^ 32 * arg.toNat + (2 ^ 4 * srcOk.toNat + op.toNat) := by
        rw [← Nat.two_pow_add_eq_or_of_lt hop, ← Nat.two_pow_add_eq_or_of_lt hlow]
    _ = arg.toNat * 2 ^ 32 + srcOk.toNat * 2 ^ 4 + op.toNat := by ring

/-- Settles O8: an encoded header is its operation's parts, packed. -/
theorem encodeAsNumber : Obligations.EncodeAsNumber := by
  intro i
  rw [encode_eq_packHeader, packHeader_toNat]

/-- Settles O9: each header is evaluated. -/
theorem specHeadersDecode : Obligations.SpecHeadersDecode := by
  unfold Obligations.SpecHeadersDecode
  decide

end Sys2Proof

/-! ## The status codes (30_encoding.md R73) -/

namespace Sys2Proof.Machine

/-- The status a 3-bit code stands for. -/
def statusOfCode (c : BitVec 3) : Option Status :=
  match c.toNat with
  | 0 => some .ok
  | 1 => some (.error .truncatedInput)
  | 2 => some (.error .misalignedTrailingData)
  | 3 => some (.error .recordLength)
  | 4 => some (.error .sourceFailure)
  | 5 => some (.error .operandLength)
  | 6 => some (.error .illegalOp)
  | _ => none

theorem statusOfCode_code (a : Status) : statusOfCode a.code = some a := by
  cases a with
  | ok => rfl
  | error k => cases k <;> rfl

theorem Status.code_injective {a b : Status} (h : a.code = b.code) : a = b :=
  Option.some_inj.mp (by rw [← statusOfCode_code a, h, statusOfCode_code b])

theorem Status.code_ne_seven (a : Status) : a.code ≠ 7 := by
  intro h
  have hnone : statusOfCode a.code = none := by rw [h]; rfl
  rw [statusOfCode_code] at hnone
  cases hnone

/-- Settles O11: the code of each status gives the status back, and 7 gives none. -/
theorem statusCodes : Obligations.StatusCodes :=
  ⟨rfl, rfl, rfl, rfl, rfl, rfl, rfl, rfl, rfl, rfl, rfl, rfl, rfl, rfl,
    fun _ _ => Status.code_injective, Status.code_ne_seven⟩

/-! ## Reading a float32 pattern (30_encoding.md R75) -/

/-- Sign, exponent and fraction are a pattern's bits 31, 30 to 23 and 22 to 0. -/
theorem f32_fields (p : Word32) : BitVec.ofBool (f32Sign p) ++ f32Exponent p ++ f32Fraction p = p := by
  have hsign : BitVec.ofBool (f32Sign p) = p.extractLsb' 31 1 := by
    apply BitVec.eq_of_getLsbD_eq
    intro k hk
    obtain rfl : k = 0 := by omega
    simp [f32Sign]
  rw [hsign, f32Exponent, f32Fraction, BitVec.extractLsb'_append_extractLsb'_eq_extractLsb',
    BitVec.extractLsb'_append_extractLsb'_eq_extractLsb']
  · exact BitVec.extractLsb'_eq_self
  · rfl
  · rfl

theorem f32_ext {p q : Word32} (hs : f32Sign p = f32Sign q) (he : f32Exponent p = f32Exponent q)
    (hf : f32Fraction p = f32Fraction q) : p = q := by
  rw [← f32_fields p, ← f32_fields q, hs, he, hf]

theorem f32ValueUlps_eq_none_iff {p : Word32} : f32ValueUlps p = none ↔ f32Exponent p = 255 := by
  unfold f32ValueUlps
  split
  · next h => exact iff_of_true rfl h
  · next h => split <;> exact iff_of_false nofun h

/-- A value is the magnitude with the pattern's sign. -/
theorem f32ValueUlps_eq_some {p : Word32} {v : Int} (h : f32ValueUlps p = some v) :
    v = if f32Sign p then -(f32MagnitudeUlps p : Int) else f32MagnitudeUlps p := by
  unfold f32ValueUlps at h
  split at h
  · cases h
  · split at h <;> cases h <;> simp [*]

theorem f32MagnitudeUlps_eq_natAbs {p : Word32} {v : Int} (h : f32ValueUlps p = some v) :
    f32MagnitudeUlps p = v.natAbs := by
  rw [f32ValueUlps_eq_some h]
  split <;> omega

/-- The value 0 has a pattern of either sign; any other value has its sign in bit 31. -/
theorem f32Sign_of_value {p : Word32} {v : Int} (h : f32ValueUlps p = some v) (hv : v ≠ 0) :
    f32Sign p = decide (v < 0) := by
  have hvalue := f32ValueUlps_eq_some h
  rw [Bool.eq_iff_iff, decide_eq_true_iff]
  split at hvalue
  · next hs => exact iff_of_true hs (by omega)
  · next hs => exact iff_of_false hs (by omega)

theorem f32Class_special_iff {p : Word32} :
    (f32Class p = .infinity ∨ f32Class p = .quietNaN ∨ f32Class p = .signallingNaN) ↔ f32Exponent p = 255 := by
  unfold f32Class
  by_cases h0 : f32Exponent p = 0
  · rw [if_pos h0, h0]
    split <;> decide
  · rw [if_neg h0]
    by_cases h255 : f32Exponent p = 255
    · rw [if_pos h255]
      split
      · simp [h255]
      · split <;> simp [h255]
    · rw [if_neg h255]
      exact iff_of_false (by decide) h255

/-- A magnitude is below the least one of the next exponent. -/
theorem f32MagnitudeUlps_lt (p : Word32) : f32MagnitudeUlps p < 2 ^ ((f32Exponent p).toNat + 23) := by
  have hf : (f32Fraction p).toNat < 2 ^ 23 := (f32Fraction p).isLt
  unfold f32MagnitudeUlps
  split
  · next h0 => rw [h0]; exact hf
  · next h0 =>
    have hpos : (f32Exponent p).toNat ≠ 0 := fun h => h0 (BitVec.eq_of_toNat_eq h)
    calc (2 ^ 23 + (f32Fraction p).toNat) * 2 ^ ((f32Exponent p).toNat - 1)
        < 2 ^ 24 * 2 ^ ((f32Exponent p).toNat - 1) := Nat.mul_lt_mul_of_pos_right (by omega) (by positivity)
      _ = 2 ^ ((f32Exponent p).toNat + 23) := by rw [← pow_add]; congr 1; omega

/-- A normal magnitude is at least 2^23 units of its exponent. -/
theorem le_f32MagnitudeUlps {p : Word32} (h0 : f32Exponent p ≠ 0) :
    2 ^ ((f32Exponent p).toNat + 22) ≤ f32MagnitudeUlps p := by
  have hpos : (f32Exponent p).toNat ≠ 0 := fun h => h0 (BitVec.eq_of_toNat_eq h)
  rw [f32MagnitudeUlps, if_neg h0]
  calc 2 ^ ((f32Exponent p).toNat + 22)
      = 2 ^ 23 * 2 ^ ((f32Exponent p).toNat - 1) := by rw [← pow_add]; congr 1; omega
    _ ≤ _ := Nat.mul_le_mul_right _ (Nat.le_add_right _ _)

theorem f32MagnitudeUlps_lt_of_exponent_lt {p q : Word32} (h : (f32Exponent p).toNat < (f32Exponent q).toNat) :
    f32MagnitudeUlps p < f32MagnitudeUlps q := by
  have h0 : f32Exponent q ≠ 0 := fun e => by rw [e] at h; exact Nat.not_lt_zero _ h
  calc f32MagnitudeUlps p < 2 ^ ((f32Exponent p).toNat + 23) := f32MagnitudeUlps_lt p
    _ ≤ 2 ^ ((f32Exponent q).toNat + 22) := Nat.pow_le_pow_right (by decide) (by omega)
    _ ≤ f32MagnitudeUlps q := le_f32MagnitudeUlps h0

/-- A magnitude fixes the exponent, by the ranges of the magnitudes, and then the fraction. -/
theorem f32MagnitudeUlps_injective {p q : Word32} (h : f32MagnitudeUlps p = f32MagnitudeUlps q) :
    f32Exponent p = f32Exponent q ∧ f32Fraction p = f32Fraction q := by
  have he : f32Exponent p = f32Exponent q := by
    apply BitVec.eq_of_toNat_eq
    obtain hlt | heq | hgt := Nat.lt_trichotomy (f32Exponent p).toNat (f32Exponent q).toNat
    · exact absurd h (f32MagnitudeUlps_lt_of_exponent_lt hlt).ne
    · exact heq
    · exact absurd h (f32MagnitudeUlps_lt_of_exponent_lt hgt).ne'
  refine ⟨he, BitVec.eq_of_toNat_eq ?_⟩
  unfold f32MagnitudeUlps at h
  rw [he] at h
  split at h
  · exact h
  · exact Nat.add_left_cancel (Nat.mul_right_cancel (by positivity) h)

theorem f32Class_zero_of_magnitude {p : Word32} (h : f32MagnitudeUlps p = 0) : f32Class p = .zero := by
  obtain ⟨he, hf⟩ := f32MagnitudeUlps_injective (p := p) (q := 0) h
  exact (if_pos he).trans (if_pos hf)

/-- Equal values have equal magnitudes, and one sign unless the magnitudes are 0. -/
theorem f32_eq_or_zero_of_value {p q : Word32} {v : Int} (hp : f32ValueUlps p = some v) (hq : f32ValueUlps q = some v) :
    p = q ∨ (f32Class p = .zero ∧ f32Class q = .zero) := by
  have hmagp := f32MagnitudeUlps_eq_natAbs hp
  have hmagq := f32MagnitudeUlps_eq_natAbs hq
  by_cases hv : v = 0
  · subst hv
    exact .inr ⟨f32Class_zero_of_magnitude hmagp, f32Class_zero_of_magnitude hmagq⟩
  · obtain ⟨he, hf⟩ := f32MagnitudeUlps_injective (hmagp.trans hmagq.symm)
    exact .inl (f32_ext ((f32Sign_of_value hp hv).trans (f32Sign_of_value hq hv).symm) he hf)

/-- Settles O47: the fields make up the pattern, exponent 255 is what has no value, the magnitude fixes exponent and
fraction, and the four examples are evaluated. -/
theorem float32Layout : Obligations.Float32Layout :=
  ⟨f32_fields, fun _ => f32ValueUlps_eq_none_iff.trans f32Class_special_iff.symm,
    fun _ _ _ => f32_eq_or_zero_of_value, by decide, by decide, by decide, by decide⟩

end Sys2Proof.Machine

/-! # The family 40_numeric_codec.md: assembly as a bijection, the five codec operations, the two round trips

Each part is a layer of lemmas about the model's operations, and then the obligations they settle. -/

/-! ## Big-endian assembly is a bijection (40_numeric_codec.md R107) -/

namespace Sys2Proof.Machine

/-- The two bytes of a 16-bit value, the more significant first: what `bytes32` is for 32 bits. -/
def bytes16 (v : Word16) : List Byte := [v.extractLsb' 8 8, v.extractLsb' 0 8]

theorem be16_bytes16 (v : Word16) : be16 (bytes16 v) = v :=
  calc be16 (bytes16 v)
    _ = v.extractLsb' 8 8 ++ v.extractLsb' 0 8 := be16_two _ _
    _ = v.extractLsb' 0 16 := BitVec.extractLsb'_append_extractLsb'_eq_extractLsb' rfl
    _ = v := BitVec.extractLsb'_eq_self

theorem bytes16_be16 {b : List Byte} (hb : b.length = 2) : bytes16 (be16 b) = b := by
  obtain ⟨hi, lo, rfl⟩ := List.length_eq_two.mp hb
  rw [bytes16, be16_two, BitVec.extractLsb'_append_eq_left, BitVec.extractLsb'_append_eq_right]

/-- `bytes32_be32` for a byte sequence that is known by its length. -/
theorem bytes32_be32_of_length {b : List Byte} (hb : b.length = 4) : bytes32 (be32 b) = b := by
  obtain ⟨b3, b2, b1, b0, rfl⟩ := List.length_eq_four.mp hb
  exact bytes32_be32 b3 b2 b1 b0

theorem be16_injective {b b' : List Byte} (hb : b.length = 2) (hb' : b'.length = 2) (h : be16 b = be16 b') :
    b = b' := by
  rw [← bytes16_be16 hb, h, bytes16_be16 hb']

theorem be32_injective {b b' : List Byte} (hb : b.length = 4) (hb' : b'.length = 4) (h : be32 b = be32 b') :
    b = b' := by
  rw [← bytes32_be32_of_length hb, h, bytes32_be32_of_length hb']

theorem bytes32_injective : Function.Injective bytes32 := Function.LeftInverse.injective be32_bytes32

/-- Settles O36: the bytes of a value are assembled to it, and the bytes of an assembled value are those assembled. -/
theorem assemblyIsBijective : Obligations.AssemblyIsBijective :=
  ⟨fun _ _ => be16_injective, fun v => ⟨bytes16 v, rfl, be16_bytes16 v⟩,
    fun _ _ => be32_injective, fun w => ⟨bytes32 w, rfl, be32_bytes32 w⟩⟩

/-! ## An operation in a transaction: illegal header, failed source, own answer (40_numeric_codec.md R100) -/

theorem lenFits_fieldLen (h : Header) : lenFits (fieldLen h) = true := decide_eq_true (fieldLen_lt h)

theorem step_reserved {s : State} {t : Transaction} (ht : s.txn = some t) (hr : fieldRsv t.request.header ≠ 0) :
    step s = .next (s.raise .illegalOp) := step_illegal (fetch_busy ht) (decode_reserved hr)

theorem exec_noSource {i : Instr} {s : State} {t : Transaction} (hB : isFormatW i = false) (hok : i.srcOk = false)
    (ht : s.txn = some t) : exec i s = .next (s.raise .sourceFailure) := by
  rw [exec_formatB hB, hok, serveB_noSource ht]

/-- Past its prologue a format B operation issues its own answer. -/
theorem exec_answers {i : Instr} {s : State} {t : Transaction} {a : Response} (hB : isFormatW i = false)
    (hok : i.srcOk = true) (ht : s.txn = some t) (hl : i.operandLen ≤ s.maxLen.val)
    (hs : t.request.data.size = i.operandLen) (hop : opOf i t.request.data = some a) :
    exec i s = .next (s.respond a) := by
  rw [exec_formatB hB, hok, serveB_proceed ht hl hs, hop, State.answer]

/-! ## The five operations -/

/-- Settles O14: the pattern is the word at offset 0. -/
theorem b2f32Meaning : Obligations.B2f32Meaning := by
  refine ⟨fun h hr hop => decode_eq_ok_iff.mpr ⟨hr, hop, rfl, (ofNat_fieldLen h).symm, lenFits_fieldLen h⟩,
    fun s t ht hmax => ⟨?_, ?_, ?_, ?_⟩⟩
  · exact fun _ hr => step_reserved ht hr
  · exact fun len _ => exec_noSource rfl rfl ht
  · exact fun len hl hs hne => exec_answers rfl rfl ht hl hs (opB2f32_wrong _ hne)
  · exact fun hs => exec_answers rfl rfl ht (le_trans (by decide) hmax) hs (opB2f32_exact _ hs)

/-- Settles O15: the value is the half at offset 0, as a number. -/
theorem b2u16Meaning : Obligations.B2u16Meaning := by
  refine ⟨fun h hr hop => decode_eq_ok_iff.mpr ⟨hr, hop, rfl, (ofNat_fieldLen h).symm, lenFits_fieldLen h⟩,
    fun s t ht hmax => ⟨?_, ?_, ?_, ?_⟩⟩
  · exact fun _ hr => step_reserved ht hr
  · exact fun len _ => exec_noSource rfl rfl ht
  · exact fun len hl hs hne => exec_answers rfl rfl ht hl hs (opB2u16_wrong _ hne)
  · intro hs
    refine ⟨_, exec_answers rfl rfl ht (le_trans (by decide) hmax) hs (opB2u16_exact _ hs), ?_⟩
    rw [Memory.halfView, ← be16_two, be16_toNat]

/-- Settles O16: the value is the word at offset 0, as a number. -/
theorem b2u32Meaning : Obligations.B2u32Meaning := by
  refine ⟨fun h hr hop => decode_eq_ok_iff.mpr ⟨hr, hop, rfl, (ofNat_fieldLen h).symm, lenFits_fieldLen h⟩,
    fun s t ht hmax => ⟨?_, ?_, ?_, ?_⟩⟩
  · exact fun _ hr => step_reserved ht hr
  · exact fun len _ => exec_noSource rfl rfl ht
  · exact fun len hl hs hne => exec_answers rfl rfl ht hl hs (opB2u32_wrong _ hne)
  · intro hs
    refine ⟨_, exec_answers rfl rfl ht (le_trans (by decide) hmax) hs (opB2u32_exact _ hs), ?_⟩
    rw [Memory.wordView, ← be32_four, be32_toNat]

/-- Settles O17: the four bytes are those `bytes32` takes the word apart into, and `be32` puts them together again. -/
theorem f322bMeaning : Obligations.F322bMeaning := by
  refine ⟨fun h hr hop => decode_eq_ok_iff.mpr ⟨hr, hop, rfl, rfl, rfl⟩, fun s t srcOk w ht => ⟨?_, ?_⟩⟩
  · exact fun _ hr => step_reserved ht hr
  · refine ⟨_, _, _, _, serveW_next ht _, ?_⟩
    rw [← be32_four]
    exact (be32_bytes32 w).symm

/-- Settles O18: the text lists the bytes of the buffer, and no length is an error. -/
theorem b2ascMeaning : Obligations.B2ascMeaning := by
  refine ⟨fun h hr hop => decode_eq_ok_iff.mpr ⟨hr, hop, rfl, (ofNat_fieldLen h).symm, lenFits_fieldLen h⟩,
    fun s t ht hmax => ⟨?_, ?_, ?_⟩⟩
  · exact fun _ hr => step_reserved ht hr
  · exact fun len _ => exec_noSource rfl rfl ht
  · intro len hl hs
    refine ⟨_, exec_answers rfl rfl ht hl hs (opB2asc_exact _ hs), by simp, fun k hk => ?_⟩
    rw [List.getElem?_map, List.getElem?_range hk, Option.map_some]

/-! ## B2F32 and F322B through the unit (40_numeric_codec.md R106, R108) -/

/-- The word at offset 0 of a buffer made from four bytes is their assembly. -/
theorem Memory.ofBytes_wordView {b : List Byte} (hb : b.length = 4) : (Memory.ofBytes b).wordView 0 = be32 b := by
  obtain ⟨b3, b2, b1, b0, rfl⟩ := List.length_eq_four.mp hb
  simp only [Memory.wordView, Memory.ofBytes_byte, be32_four]
  rfl

/-- A unit just reset answers a B2F32 line of four bytes with their assembly, when its MAXLEN lets them in. -/
theorem answers_b2f32_iff {maxLen : Length} {b : List Byte} {a : Response} (hb : b.length = 4) :
    Answers maxLen (lineB .b2f32 true b) a ↔ 4 ≤ maxLen.val ∧ a = Response.ok (.float32 (be32 b)) := by
  rw [lineB, answers_formatB_iff rfl rfl rfl, Instr.operandLen, opOf, hb, opB2f32_exact _ hb,
    Memory.ofBytes_wordView hb, Option.some_inj, eq_comm (a := a)]

/-- A unit just reset answers an F322B line with the bytes of its word, whatever its MAXLEN. -/
theorem answers_lineW_iff {maxLen : Length} {w : Word32} {a : Response} :
    Answers maxLen (lineW w) a ↔ a = Response.ok (.bytes (bytes32 w)) := by
  have hf := fetch_idle (s := (State.fresh maxLen).issue (lineW w)) rfl rfl
  have hstep : step ((State.fresh maxLen).issue (lineW w)) =
      .next ((State.fresh maxLen).respond (Response.ok (.bytes (bytes32 w)))) :=
    step_decoded hf (decodeOfEncode (.f322b false w) rfl)
  rw [Answers, hstep]
  constructor
  · intro h
    have hs := Host.Outcome.next.inj h
    exact (List.singleton_inj.mp (congrArg State.responses hs)).symm
  · rintro rfl
    rfl

/-- Settles O37: B2F32 answers with `be32` and F322B with `bytes32`, which are inverse to each other. -/
theorem roundTripThroughUnit : Obligations.RoundTripThroughUnit := by
  intro maxLen hmax
  have h4 : 4 ≤ maxLen.val := le_trans (by decide) hmax
  refine ⟨fun b hb => ⟨be32 b, (answers_b2f32_iff hb).mpr ⟨h4, rfl⟩, ?_⟩,
    fun w => ⟨bytes32 w, answers_lineW_iff.mpr rfl, ?_⟩⟩
  · rw [answers_lineW_iff, bytes32_be32_of_length hb]
  · rw [answers_b2f32_iff rfl, be32_bytes32]
    exact ⟨h4, rfl⟩

/-- Settles O46: the answers are injective images of the operands, by `be32` and `bytes32`. -/
theorem noPatternIsMerged : Obligations.NoPatternIsMerged := by
  refine fun maxLen => ⟨fun b b' a hb hb' h h' => ?_, fun w w' a h h' => ?_⟩
  · obtain ⟨-, rfl⟩ := (answers_b2f32_iff hb).mp h
    obtain ⟨-, he⟩ := (answers_b2f32_iff hb').mp h'
    have hword : be32 b = be32 b' := by simpa [Response.ok] using he
    exact be32_injective hb hb' hword
  · obtain rfl := answers_lineW_iff.mp h
    have hbytes : bytes32 w = bytes32 w' := by simpa [Response.ok] using answers_lineW_iff.mp h'
    exact bytes32_injective hbytes

end Sys2Proof.Machine

/-! # The family 41_vertex_decoder.md: VTX and the independence of its lanes -/

namespace Sys2Proof.Machine

/-! ## The operation (41_vertex_decoder.md R130) -/

/-- Settles O19: the Vertex is the one at offset 0, its components at 0, 4 and 8. -/
theorem vtxMeaning : Obligations.VtxMeaning := by
  refine ⟨fun h hr hop => decode_eq_ok_iff.mpr ⟨hr, hop, rfl, (ofNat_fieldLen h).symm, lenFits_fieldLen h⟩,
    fun s t ht hmax => ⟨?_, ?_, ?_, ?_⟩⟩
  · exact fun _ hr => step_reserved ht hr
  · exact fun len _ => exec_noSource rfl rfl ht
  · exact fun len hl hs hne => exec_answers rfl rfl ht hl hs (opVtx_wrong _ hne)
  · exact fun hs => exec_answers rfl rfl ht (le_trans (by decide) hmax) hs (opVtx_exact _ hs)

/-! ## A lane and its four bytes (41_vertex_decoder.md R131) -/

/-- The converse of `Memory.wordView_congr` too: assembly is injective, so equal words have equal bytes. -/
theorem Memory.wordView_eq_iff {m m' : Memory} {o o' : Nat} :
    m.wordView o = m'.wordView o' ↔ ∀ k, k < 4 → m.byte (o + k) = m'.byte (o' + k) := by
  refine ⟨fun h => ?_, Memory.wordView_congr⟩
  rw [Memory.wordView, Memory.wordView, ← be32_four, ← be32_four] at h
  have hbytes := be32_injective rfl rfl h
  simp only [List.cons.injEq, and_true] at hbytes
  obtain ⟨h0, h1, h2, h3⟩ := hbytes
  intro k hk
  match k, hk with
  | 0, _ => exact h0
  | 1, _ => exact h1
  | 2, _ => exact h2
  | 3, _ => exact h3

/-- Inside both sequences the buffers' bytes agree exactly when the sequences' entries do. -/
theorem Memory.ofBytes_byte_eq_iff {b b' : List Byte} {k : Nat} (hk : k < b.length) (hk' : k < b'.length) :
    (Memory.ofBytes b).byte k = (Memory.ofBytes b').byte k ↔ b[k]? = b'[k]? := by
  simp only [Memory.ofBytes_byte, List.getD_eq_getElem?_getD, List.getElem?_eq_getElem hk,
    List.getElem?_eq_getElem hk', Option.getD_some, Option.some_inj]

/-- Lane c of a Vertex that answers a VTX line is the word at offset 4c of the line's bytes; the answer itself says that
there are 12 of them. -/
theorem answers_vtx_component {maxLen : Length} {b : List Byte} {v : Vertex}
    (h : Answers maxLen (lineB .vtx true b) (Response.ok (.vertex v))) {c : Nat} (hc : c < 3) :
    v.component c = some ((Memory.ofBytes b).wordView (4 * c)) := by
  obtain ⟨-, hop⟩ := (answers_formatB_iff (i := .vtx true b.length) rfl rfl rfl).mp h
  rw [opVtx_vertex (Memory.ofBytes_size b) hop, Memory.vertexView_component _ 0 hc, Nat.zero_add]

/-- Settles O39: lane c is the word at offset 4c, and words agree exactly when their four bytes do. -/
theorem vertexLanesAreIndependent : Obligations.VertexLanesAreIndependent := by
  intro maxLen b b' v v' c hb hb' hc h h'
  rw [answers_vtx_component h hc, answers_vtx_component h' hc, Option.some_inj, Memory.wordView_eq_iff]
  exact forall₂_congr fun k hk => Memory.ofBytes_byte_eq_iff (by omega) (by omega)

end Sys2Proof.Machine

/-! # The family 42_triangle_decoder.md: TRI and its bijection from 50-byte records to Triangles -/

namespace Sys2Proof.Machine

/-! ## The operation (42_triangle_decoder.md R140) -/

/-- Settles O20: the Triangle is the one at offset 0, its slots at 0, 12, 24 and 36 and its `attr` at 48. -/
theorem triMeaning : Obligations.TriMeaning := by
  refine ⟨fun h hr hop => decode_eq_ok_iff.mpr ⟨hr, hop, rfl, (ofNat_fieldLen h).symm, lenFits_fieldLen h⟩,
    fun s t ht hmax => ⟨?_, ?_, ?_, ?_⟩⟩
  · exact fun _ hr => step_reserved ht hr
  · exact fun len _ => exec_noSource rfl rfl ht
  · exact fun len hl hs hne => exec_answers rfl rfl ht hl hs (opTri_wrong _ hne)
  · exact fun hs => exec_answers rfl rfl ht (le_trans (by decide) hmax) hs (opTri_exact _ hs)

/-- A unit just reset answers a TRI line of 50 bytes with the Triangle at offset 0, when its MAXLEN lets them in. -/
theorem answers_tri_iff {maxLen : Length} {b : List Byte} {a : Response} (hb : b.length = 50) :
    Answers maxLen (lineB .tri true b) a ↔
      50 ≤ maxLen.val ∧ a = Response.ok (.triangle ((Memory.ofBytes b).triangleView 0)) := by
  rw [lineB, answers_formatB_iff rfl rfl rfl, Instr.operandLen, opOf, hb, opTri_exact _ hb, Option.some_inj,
    eq_comm (a := a)]

/-! ## Equal Triangles have equal bytes -/

theorem Memory.halfView_eq_iff {m m' : Memory} {o o' : Nat} :
    m.halfView o = m'.halfView o' ↔ ∀ k, k < 2 → m.byte (o + k) = m'.byte (o' + k) := by
  refine ⟨fun h => ?_, Memory.halfView_congr⟩
  rw [Memory.halfView, Memory.halfView, ← be16_two, ← be16_two] at h
  have hbytes := be16_injective rfl rfl h
  simp only [List.cons.injEq, and_true] at hbytes
  obtain ⟨h0, h1⟩ := hbytes
  intro k hk
  match k, hk with
  | 0, _ => exact h0
  | 1, _ => exact h1

/-- The converse of `Memory.triangleView_congr` too. Byte k below 48 is byte k mod 4 of component (k mod 12) / 4 of vertex
slot k / 12 (20_memory.md R54); the last two are those of `attr`. -/
theorem Memory.triangleView_eq_iff {m m' : Memory} {o o' : Nat} :
    m.triangleView o = m'.triangleView o' ↔ ∀ k, k < 50 → m.byte (o + k) = m'.byte (o' + k) := by
  refine ⟨fun h k hk => ?_, Memory.triangleView_congr⟩
  by_cases hvertex : k < 48
  · have hj : k / 12 < 4 := by omega
    have hc : k % 12 / 4 < 3 := by omega
    have hword : m.wordView (o + 12 * (k / 12) + 4 * (k % 12 / 4)) =
        m'.wordView (o' + 12 * (k / 12) + 4 * (k % 12 / 4)) := by
      rw [← Option.some_inj, ← m.triangleView_slot_component o hj hc, h, m'.triangleView_slot_component o' hj hc]
    have hpos : ∀ p, p + 12 * (k / 12) + 4 * (k % 12 / 4) + k % 4 = p + k := fun p => by omega
    simpa only [hpos] using Memory.wordView_eq_iff.mp hword (k % 4) (Nat.mod_lt k (by decide))
  · have hhalf : m.halfView (o + 48) = m'.halfView (o' + 48) := congrArg Triangle.attr h
    have hpos : ∀ p, p + 48 + (k - 48) = p + k := fun p => by omega
    simpa only [hpos] using Memory.halfView_eq_iff.mp hhalf (k - 48) (by omega)

/-! ## The 50 bytes of a Triangle -/

/-- The 12 bytes of a Vertex, component by component (20_memory.md R53). -/
def Vertex.toBytes (v : Vertex) : List Byte := bytes32 v.x ++ bytes32 v.y ++ bytes32 v.z

/-- The record of a Triangle, laid out as 20_memory.md R52 says. -/
def Triangle.toBytes (t : Triangle) : List Byte :=
  t.normal.toBytes ++ t.v0.toBytes ++ t.v1.toBytes ++ t.v2.toBytes ++ bytes16 t.attr

theorem Triangle.toBytes_length (t : Triangle) : t.toBytes.length = 50 := rfl

/-- Where the sequence holds the bytes of a word, its buffer shows that word. -/
theorem Memory.ofBytes_wordView_of_window {b : List Byte} {o : Nat} {w : Word32}
    (h : (b.drop o).take 4 = bytes32 w) : (Memory.ofBytes b).wordView o = w :=
  calc (Memory.ofBytes b).wordView o
    _ = (Memory.ofBytes ((b.drop o).take 4)).wordView 0 :=
      (Memory.wordView_congr fun _ hk => Memory.ofBytes_window_byte b o hk).symm
    _ = be32 (bytes32 w) := by rw [h, Memory.ofBytes_wordView rfl]
    _ = w := be32_bytes32 w

/-- The half at offset 0 of a buffer made from two bytes is their assembly. -/
theorem Memory.ofBytes_halfView {b : List Byte} (hb : b.length = 2) : (Memory.ofBytes b).halfView 0 = be16 b := by
  obtain ⟨b1, b0, rfl⟩ := List.length_eq_two.mp hb
  simp only [Memory.halfView, Memory.ofBytes_byte, be16_two]
  rfl

/-- Where the sequence holds the bytes of a 16-bit value, its buffer shows that value. -/
theorem Memory.ofBytes_halfView_of_window {b : List Byte} {o : Nat} {v : Word16}
    (h : (b.drop o).take 2 = bytes16 v) : (Memory.ofBytes b).halfView o = v :=
  calc (Memory.ofBytes b).halfView o
    _ = (Memory.ofBytes ((b.drop o).take 2)).halfView 0 := (Memory.ofBytes_window_halfView b o).symm
    _ = be16 (bytes16 v) := by rw [h, Memory.ofBytes_halfView rfl]
    _ = v := be16_bytes16 v

/-- Where the sequence holds the bytes of a Vertex, its buffer shows that Vertex. -/
theorem Memory.ofBytes_vertexView_of_windows {b : List Byte} {o : Nat} {v : Vertex}
    (hx : (b.drop o).take 4 = bytes32 v.x) (hy : (b.drop (o + 4)).take 4 = bytes32 v.y)
    (hz : (b.drop (o + 8)).take 4 = bytes32 v.z) : (Memory.ofBytes b).vertexView o = v := by
  rw [Memory.vertexView, ofBytes_wordView_of_window hx, ofBytes_wordView_of_window hy, ofBytes_wordView_of_window hz]

theorem Triangle.triangleView_toBytes (t : Triangle) : (Memory.ofBytes t.toBytes).triangleView 0 = t := by
  have hnormal : (Memory.ofBytes t.toBytes).vertexView 0 = t.normal := Memory.ofBytes_vertexView_of_windows rfl rfl rfl
  have hv0 : (Memory.ofBytes t.toBytes).vertexView 12 = t.v0 := Memory.ofBytes_vertexView_of_windows rfl rfl rfl
  have hv1 : (Memory.ofBytes t.toBytes).vertexView 24 = t.v1 := Memory.ofBytes_vertexView_of_windows rfl rfl rfl
  have hv2 : (Memory.ofBytes t.toBytes).vertexView 36 = t.v2 := Memory.ofBytes_vertexView_of_windows rfl rfl rfl
  have hattr : (Memory.ofBytes t.toBytes).halfView 48 = t.attr := Memory.ofBytes_halfView_of_window rfl
  simp only [Memory.triangleView, Nat.zero_add, hnormal, hv0, hv1, hv2, hattr]

/-! ## The bijection (42_triangle_decoder.md R141) -/

/-- Settles O40: TRI answers with the Triangle at offset 0, which determines all 50 bytes, and every Triangle is the one at
offset 0 of its own record. -/
theorem triangleRecordsBijective : Obligations.TriangleRecordsBijective := by
  intro maxLen hmax
  have h50 : 50 ≤ maxLen.val := le_trans (by decide) hmax
  refine ⟨fun b hb => ⟨_, (answers_tri_iff hb).mpr ⟨h50, rfl⟩⟩, fun b b' t hb hb' h h' => ?_,
    fun t => ⟨t.toBytes, t.toBytes_length, (answers_tri_iff t.toBytes_length).mpr ⟨h50, ?_⟩⟩⟩
  · obtain ⟨-, ht⟩ := (answers_tri_iff hb).mp h
    obtain ⟨-, ht'⟩ := (answers_tri_iff hb').mp h'
    have hview : (Memory.ofBytes b).triangleView 0 = (Memory.ofBytes b').triangleView 0 := by
      simpa [Response.ok] using ht.symm.trans ht'
    refine List.ext_getElem? fun k => ?_
    by_cases hk : k < 50
    · have hbyte := Memory.triangleView_eq_iff.mp hview k hk
      rw [Nat.zero_add] at hbyte
      exact (Memory.ofBytes_byte_eq_iff (hb ▸ hk) (hb' ▸ hk)).mp hbyte
    · rw [List.getElem?_eq_none (by omega), List.getElem?_eq_none (by omega)]
  · rw [t.triangleView_toBytes]

end Sys2Proof.Machine

/-! # The family 43_file_decoder.md: DEC, its Mesh, and its phases

Each part is a layer of lemmas about the model's operations, and then the obligations they settle. -/

/-! ## What DEC answers (43_file_decoder.md R150 to R158) -/

namespace Sys2Proof.Machine

/-- Everything DEC can answer on a buffer of its declared length: the two errors of its own, or the Mesh of the buffer. -/
theorem opDec_cases {len : Nat} {m : Memory} {a : Response} (hs : m.size = len) (h : opDec len m = some a) :
    (len < 84 ∧ a = Response.error .truncatedInput) ∨
    (84 ≤ len ∧ (len - 84) % 50 ≠ 0 ∧ a = Response.error .misalignedTrailingData) ∨
    (84 ≤ len ∧ (len - 84) % 50 = 0 ∧ a = Response.ok (.mesh m.meshView)) := by
  subst hs
  by_cases hshort : m.size < 84
  · rw [opDec_short m hshort] at h
    exact .inl ⟨hshort, (Option.some.inj h).symm⟩
  · have hlong : 84 ≤ m.size := by omega
    by_cases hr : (m.size - 84) % 50 = 0
    · rw [opDec_exact m rfl hlong hr] at h
      exact .inr (.inr ⟨hlong, hr, (Option.some.inj h).symm⟩)
    · rw [opDec_misaligned m rfl hlong hr] at h
      exact .inr (.inl ⟨hlong, hr, (Option.some.inj h).symm⟩)

/-- A file of n whole records is answered with the Mesh of its buffer. -/
theorem opDec_records {m : Memory} {n : Nat} (hs : m.size = 84 + 50 * n) :
    opDec (84 + 50 * n) m = some (Response.ok (.mesh m.meshView)) := by
  rw [Memory.meshView, hs]
  exact opDec_exact m hs (by omega) (by omega)

/-- The count of a file that an operand length can declare is the number of its records (R155). -/
theorem Memory.meshView_count {m : Memory} {n : Nat} (hs : m.size = 84 + 50 * n) (hn : n < 2 ^ 32) :
    m.meshView.count.toNat = n := by
  have hwin : (m.size - 84) / 50 = n := by omega
  rw [Memory.meshView, hwin, BitVec.toNat_ofNat, Nat.mod_eq_of_lt hn]

@[simp] theorem Memory.meshView_header_length (m : Memory) : m.meshView.header.length = 80 := by
  simp [Memory.meshView]

@[simp] theorem Memory.meshView_triangles_length (m : Memory) :
    m.meshView.triangles.length = (m.size - 84) / 50 := by
  simp [Memory.meshView]

/-- Settles O21: the errors in DEC's order, and the Mesh of a whole file, part by part. -/
theorem decMeaning : Obligations.DecMeaning := by
  refine ⟨fun h hr hop => decode_eq_ok_iff.mpr ⟨hr, hop, rfl, (ofNat_fieldLen h).symm, lenFits_fieldLen h⟩,
    fun s t ht hmax => ⟨?_, ?_, ?_, ?_, ?_⟩⟩
  · exact fun _ hr => step_reserved ht hr
  · exact fun len _ => exec_noSource rfl rfl ht
  · exact fun len hshort hs => exec_answers rfl rfl ht (hshort.le.trans hmax) hs (opDec_short _ hshort)
  · exact fun len hl hs hlong hr => exec_answers rfl rfl ht hl hs (opDec_misaligned _ hs hlong hr)
  · intro n hl hs
    have hn : n < 2 ^ 32 := lt_of_le_of_lt (by omega) (Config.len_lt hl)
    have hcount := Memory.meshView_count hs hn
    refine ⟨t.request.data.meshView, exec_answers rfl rfl ht hl hs (opDec_records hs),
      Memory.meshView_header_length _, fun _ => Memory.meshView_header _, hcount, ?_,
      fun k hk => Memory.meshView_triangle _ (hcount.symm ▸ hk)⟩
    rw [Memory.meshView_triangles_length, hs]
    omega

/-- Settles O30: what DEC issues is SourceFailure, one of its own two errors, or a Mesh. -/
theorem decNeverReportsInnerErrors : Obligations.DecNeverReportsInnerErrors := by
  intro s s' srcOk len h
  obtain ⟨t, a, _, rfl, ha⟩ := serveB_next (op := opDec len) h
  have hkind : a ≠ Response.error .recordLength ∧ a ≠ Response.error .operandLength := by
    obtain ⟨_, rfl⟩ | ⟨_, _, hs, hop⟩ := ha
    · decide
    · obtain ⟨_, rfl⟩ | ⟨_, _, rfl⟩ | ⟨_, _, rfl⟩ := opDec_cases hs hop
      · decide
      · decide
      · simp [Response.ok, Response.error]
  simpa using hkind

/-! ## The Mesh that a DEC line is answered with -/

/-- A Mesh that answers a DEC line is the one of the line's bytes, which are at least 84 and at most MAXLEN. -/
theorem answers_dec_mesh {maxLen : Length} {file : List Byte} {m : Mesh}
    (h : Answers maxLen (lineB .dec true file) (Response.ok (.mesh m))) :
    file.length ≤ maxLen.val ∧ 84 ≤ file.length ∧ m = (Memory.ofBytes file).meshView := by
  obtain ⟨hl, hop⟩ := (answers_formatB_iff (i := .dec true file.length) rfl rfl rfl).mp h
  exact ⟨hl, opDec_mesh (Memory.ofBytes_size file) hop⟩

/-- The header of a file's Mesh is the first 80 bytes of the file (R152). -/
theorem Memory.ofBytes_meshView_header {file : List Byte} (h : 80 ≤ file.length) :
    (Memory.ofBytes file).meshView.header = file.take 80 := by
  refine List.ext_getElem (by simpa using h) fun k hk _ => ?_
  rw [Memory.meshView_header_length] at hk
  obtain ⟨_, hbyte⟩ := List.getElem?_eq_some_iff.mp ((Memory.ofBytes file).meshView_header hk)
  rw [hbyte, Memory.ofBytes_byte, List.getD_eq_getElem _ _ (hk.trans_le h), List.getElem_take]

/-- A unit just reset answers a B2ASC line of at most MAXLEN bytes with these bytes. -/
theorem answers_b2asc {maxLen : Length} {b : List Byte} (h : b.length ≤ maxLen.val) :
    Answers maxLen (lineB .b2asc true b) (Response.ok (.text b)) := by
  refine (answers_formatB_iff rfl rfl rfl).mpr ⟨h, ?_⟩
  rw [opOf, opB2asc_exact _ (Memory.ofBytes_size b)]
  exact congrArg (fun t => some (Response.ok (.text t))) (Memory.toBytes_ofBytes b)

/-- Settles O43: both are the first 80 bytes of the file. -/
theorem decHeaderIsB2ascText : Obligations.DecHeaderIsB2ascText := by
  intro maxLen file m h
  obtain ⟨hmax, hlong, rfl⟩ := answers_dec_mesh h
  rw [Memory.ofBytes_meshView_header (le_trans (by decide) hlong)]
  exact answers_b2asc ((List.length_take_le _ _).trans (by omega))

/-! ## A file made of records (43_file_decoder.md R155, R156) -/

theorem map_length_eq_replicate {α : Type} {n : Nat} {pieces : List (List α)} (h : ∀ b ∈ pieces, b.length = n) :
    pieces.map List.length = List.replicate pieces.length n := by
  rw [List.map_congr_left h, List.map_const']

theorem flatten_length {α : Type} {n : Nat} {pieces : List (List α)} (h : ∀ b ∈ pieces, b.length = n) :
    pieces.flatten.length = n * pieces.length := by
  rw [List.length_flatten, map_length_eq_replicate h, List.sum_replicate, smul_eq_mul, mul_comm]

/-- Window k of pieces of one length, joined, is piece k. -/
theorem flatten_window {α : Type} {n k : Nat} {pieces : List (List α)} (h : ∀ b ∈ pieces, b.length = n)
    (hk : k < pieces.length) : (pieces.flatten.drop (n * k)).take n = pieces[k] := by
  have hpiece := List.drop_take_succ_flatten_eq_getElem pieces k hk
  rw [map_length_eq_replicate h, List.take_replicate, List.take_replicate,
    min_eq_left (Nat.succ_le_of_lt hk), min_eq_left hk.le, List.sum_replicate, List.sum_replicate, smul_eq_mul, smul_eq_mul] at hpiece
  rw [List.take_drop, ← hpiece, mul_comm n k, Nat.succ_mul]

/-- Settles O45: window k of the file is record k, so triangle k is the one TRI reads from the record. -/
theorem fileOfRecordsDecodes : Obligations.FileOfRecordsDecodes := by
  intro maxLen hdr cnt records ts hhdr hcnt hrec hmax hts
  have hpre : (hdr ++ cnt).length = 84 := by rw [List.length_append, hhdr, hcnt]
  have hlen : (hdr ++ cnt ++ records.flatten).length = 84 + 50 * records.length := by
    rw [List.length_append, hpre, flatten_length hrec]
  have hcount := Memory.meshView_count (m := Memory.ofBytes (hdr ++ cnt ++ records.flatten)) hlen
    (lt_of_le_of_lt (by omega) (Config.len_lt hmax))
  refine ⟨_, (answers_formatB_iff rfl rfl rfl).mpr ⟨hlen.trans_le hmax, ?_⟩, ?_, hcount, ?_⟩
  · rw [opOf, hlen]
    exact opDec_records hlen
  · rw [Memory.ofBytes_meshView_header (by omega), List.append_assoc, ← hhdr, List.take_left]
  · have htslen := hts.length_eq
    refine List.ext_getElem (by rw [Memory.meshView_triangles_length, Memory.ofBytes_size]; omega) fun k hk hk' => ?_
    have hkr : k < records.length := htslen ▸ hk'
    have htri : ts[k] = (Memory.ofBytes records[k]).triangleView 0 := by
      obtain ⟨-, he⟩ := (answers_tri_iff (hrec _ (List.getElem_mem hkr))).mp (hts.get hkr hk')
      simpa [Response.ok] using he
    have hwin : ((hdr ++ cnt ++ records.flatten).drop (84 + 50 * k)).take 50 = records[k] := by
      rw [← hpre, List.drop_length_add_append, flatten_window hrec hkr]
    have hmesh := Memory.meshView_triangle _ (hcount.symm ▸ hkr)
    rw [List.getElem?_eq_getElem hk, Option.some_inj] at hmesh
    rw [hmesh, htri, ← hwin, Memory.ofBytes_window_triangleView]

/-! ## Phases move forward (43_file_decoder.md R157) -/

theorem windowCount_remainingLen (len : Nat) : windowCount (remainingLen len) = (len - 84) / 50 := rfl

theorem windowCount_lt (h : Header) : windowCount (remainingLen (fieldLen h)) < 2 ^ 32 := by
  have hlen := fieldLen_lt h
  rw [windowCount_remainingLen]
  omega

/-- TRIANGLE(i) and, when i is the number of windows, DONE have the rank of the window reached. -/
theorem nextWindow_rank {header : Text} {remLen i : Nat} {ts : List Triangle} (hi : i ≤ windowCount remLen)
    (hw : windowCount remLen < 2 ^ 32) : (nextWindow header remLen i ts).rank = 3 + i := by
  obtain ⟨_, e⟩ | ⟨hge, e⟩ := nextWindow_cases header remLen i ts
  · rw [e, Phase.rank]
  · obtain rfl : i = windowCount remLen := by omega
    rw [e, Phase.rank, meshOf, BitVec.toNat_ofNat, Nat.mod_eq_of_lt hw]

theorem nextWindow_ne_error (header : Text) (remLen i : Nat) (ts : List Triangle) (k : ErrorKind) :
    nextWindow header remLen i ts ≠ .error k := by
  obtain ⟨_, e⟩ | ⟨_, e⟩ := nextWindow_cases header remLen i ts <;> simp [e]

theorem WindowsDecoded.remainingLen_eq {maxLen : Length} {r : Request} {header : Text} {remLen i : Nat}
    {ts : List Triangle} (h : WindowsDecoded maxLen r header remLen i ts) :
    remainingLen (fieldLen r.header) = remLen := by
  rw [h.len_eq]
  exact Nat.add_sub_cancel_left ..

theorem State.toPhase_inj {s : State} {t : Transaction} {p q : Phase} (h : s.toPhase t p = s.toPhase t q) : p = q :=
  congrArg Transaction.phase (Option.some.inj (congrArg State.txn h))

theorem State.respond_ne_toPhase (s : State) (t : Transaction) (a : Response) (p : Phase) :
    s.respond a ≠ s.toPhase t p := fun h => nomatch congrArg State.txn h

/-- ERROR(k) is entered from `p` as R157 allows. -/
def EntersError (p : Phase) (k : ErrorKind) : Prop :=
  (p = .checkLen ∧ k = .truncatedInput) ∨ ∃ h, p = .checkAlign h ∧ k = .misalignedTrailingData

/-- A tick that moves a legal transaction to phase `p` raises the rank; and where it enters ERROR from. -/
theorem advance_toPhase {t : Transaction} {s : State} {p : Phase} (hp : t.phase.wf s.maxLen t.request = true)
    (h : advance t s = .next (s.toPhase t p)) :
    t.phase.rank < p.rank ∧ ∀ k, p = .error k → EntersError t.phase k := by
  obtain ⟨r, q⟩ := t
  cases q with
  | checkLen =>
    simp only [advance] at h
    split at h <;> obtain rfl := State.toPhase_inj (Host.Outcome.next.inj h)
    · exact ⟨Nat.succ_pos 2, fun k hk => .inl ⟨rfl, (Phase.error.inj hk).symm⟩⟩
    · exact ⟨Nat.succ_pos 0, nofun⟩
  | readHeader =>
    simp only [advance] at h
    split at h
    · cases h
    · obtain rfl := State.toPhase_inj (Host.Outcome.next.inj h)
      exact ⟨Nat.lt_succ_self 1, nofun⟩
  | checkAlign header =>
    simp only [advance] at h
    split at h <;> obtain rfl := State.toPhase_inj (Host.Outcome.next.inj h)
    · exact ⟨Nat.lt_succ_self 2, fun k hk => .inr ⟨header, rfl, (Phase.error.inj hk).symm⟩⟩
    · rw [nextWindow_rank (Nat.zero_le _) (windowCount_lt r.header)]
      exact ⟨Nat.lt_succ_self 2, fun k hk => absurd hk (nextWindow_ne_error _ _ _ _ k)⟩
  | triangle header remLen i ts =>
    obtain ⟨hw, hi⟩ := Phase.wf_triangle.mp hp
    have hlt : windowCount remLen < 2 ^ 32 := hw.remainingLen_eq ▸ windowCount_lt r.header
    simp only [advance] at h
    split at h
    · cases h
    · obtain rfl := State.toPhase_inj (Host.Outcome.next.inj h)
      rw [nextWindow_rank hi hlt]
      exact ⟨Nat.lt_succ_self (3 + i), fun k hk => absurd hk (nextWindow_ne_error _ _ _ _ k)⟩
  | done _ | error _ => exact absurd (Host.Outcome.next.inj h) (State.respond_ne_toPhase _ _ _ _)

theorem State.wf_phase {s : State} {t : Transaction} (hs : s.wf = true) (ht : s.txn = some t) :
    t.phase.wf s.maxLen t.request = true := by
  obtain ⟨-, -, htxn, -⟩ := State.wf_iff.mp hs
  rw [ht, txnWf, Transaction.wf, Bool.and_eq_true] at htxn
  exact htxn.2

/-- Settles O50: a tick that does not end the transaction moves it to another phase, of greater rank. -/
theorem phasesMoveForward : Obligations.PhasesMoveForward := by
  intro s s' t t' hs ht h ht'
  rw [tick_busy ht] at h
  obtain ⟨p, rfl⟩ | ⟨a, rfl⟩ := advance_next h
  · rw [State.toPhase_txn] at ht'
    cases ht'
    exact advance_toPhase (State.wf_phase hs ht) h
  · cases ht'

/-! ## The phases lead to what the step answers (43_file_decoder.md R157, R158) -/

theorem ticks_succ {s s' : State} (h : tick s = .next s') (n : Nat) : ticks (n + 1) s = ticks n s' := by
  simp [ticks, h]

theorem ticks_one (s : State) : ticks 1 s = tick s := by
  cases h : tick s <;> simp [ticks, h]

/-- A step inside a transaction is the same in every phase (log 9): it depends on the latched request alone. -/
theorem step_toPhase {s : State} {t : Transaction} (ht : s.txn = some t) (p : Phase) :
    step (s.toPhase t p) = step s := by
  have hf := fetch_busy ht
  have hf' := fetch_busy (s.toPhase_txn t p)
  cases hd : decode t.request.header with
  | error _ => rw [step_illegal hf hd, step_illegal hf' hd]; rfl
  | ok i =>
    rw [step_decoded hf hd, step_decoded hf' hd]
    obtain ⟨a, ha⟩ | ⟨x, hx⟩ := exec_depends_on_operand i s.maxLen t.request.data
    · rw [ha s t ht rfl rfl, ha _ _ (s.toPhase_txn t p) rfl rfl]; rfl
    · rw [hx s t ht rfl rfl, hx _ _ (s.toPhase_txn t p) rfl rfl]

/-- The step of an idle unit is the step with its oldest request latched. -/
theorem step_latch {s : State} {r : Request} {rest : List Request} (ht : s.txn = none) (hr : s.requests = r :: rest) :
    step (s.latch r rest) = step s := by
  simp [step, fetch_idle ht hr, fetch_busy (s.latch_txn r rest)]

/-- The step issues the answer that the phases of the transaction in progress lead to. -/
theorem step_of_phasedAnswer {s : State} {t : Transaction} {a : Response} (ht : s.txn = some t)
    (h : t.request.phasedAnswer s.maxLen = some a) : step s = .next (s.respond a) := by
  have hf := fetch_busy ht
  unfold Request.phasedAnswer at h
  split at h
  · rename_i hd
    cases h
    exact step_illegal hf hd
  · rename_i srcOk len hd
    refine (step_decoded hf hd).trans ?_
    split at h <;> rename_i hpro
    · obtain ⟨rfl, rfl⟩ := prologueB_raise hpro
      cases h
      exact exec_noSource rfl rfl ht
    · cases h
    · obtain ⟨rfl, hl, hs⟩ := prologueB_proceed_iff.mp hpro
      exact exec_answers rfl rfl ht hl hs h
  · cases h

/-- DONE and ERROR of a legal transaction hold the response that the step answers. -/
theorem step_of_issued {s : State} {t : Transaction} {a : Response} (hs : s.wf = true) (ht : s.txn = some t)
    (h : (∃ m, t.phase = .done m ∧ a = Response.ok (.mesh m)) ∨ ∃ k, t.phase = .error k ∧ a = Response.error k) :
    step s = .next (s.respond a) := by
  have hp := State.wf_phase hs ht
  obtain ⟨m, hphase, rfl⟩ | ⟨k, hphase, rfl⟩ := h <;> rw [hphase] at hp
  · exact step_of_phasedAnswer ht (Phase.wf_done.mp hp).2
  · exact step_of_phasedAnswer ht (Phase.wf_error.mp hp)

/-- No phase of a legal transaction has a rank above that of DONE. -/
theorem Phase.rank_le {maxLen : Length} {r : Request} {p : Phase} (h : p.wf maxLen r = true) :
    p.rank ≤ 3 + windowCount (remainingLen (fieldLen r.header)) := by
  cases p with
  | triangle header remLen i ts =>
    obtain ⟨hw, hi⟩ := Phase.wf_triangle.mp h
    rw [hw.remainingLen_eq, Phase.rank]
    omega
  | done m =>
    obtain ⟨hd, ha⟩ := Phase.wf_done.mp h
    rw [phasedAnswer_decoding hd] at ha
    obtain ⟨-, rfl⟩ := opDec_mesh (decoding_size hd) ha
    have hcount := r.data.meshView_count_le
    rw [decoding_size hd] at hcount
    exact Nat.add_le_add_left hcount 3
  | checkLen | readHeader | checkAlign _ | error _ => simp only [Phase.rank]; omega

theorem advance_ne_refused (t : Transaction) (s : State) (x : Refusal) : advance t s ≠ .refused x := by
  obtain ⟨r, p⟩ := t
  cases p with
  | checkLen | readHeader | checkAlign _ | triangle _ _ _ _ =>
    simp only [advance]
    split <;> simp
  | done _ | error _ => simp [advance]

/-- A legal transaction has a next tick: it neither faults nor is refused. -/
theorem tick_busy_next {s : State} {t : Transaction} (hs : s.wf = true) (ht : s.txn = some t) :
    ∃ s', tick s = .next s' := by
  rw [tick_busy ht]
  cases h : advance t s with
  | next s' => exact ⟨s', rfl⟩
  | fault f => exact absurd h (advance_ne_fault (State.wf_phase hs ht) f)
  | refused x => exact absurd h (advance_ne_refused t s x)

/-- From inside a legal transaction the ticks lead to what the step answers: each raises the rank, which DONE bounds, and
the last one issues. -/
theorem ticks_busy {s : State} {t : Transaction} (hs : s.wf = true) (ht : s.txn = some t) :
    ∃ n, n + t.phase.rank ≤ 4 + windowCount (remainingLen (fieldLen t.request.header)) ∧ ticks n s = step s := by
  obtain ⟨s', h⟩ := tick_busy_next hs ht
  have hbound := Phase.rank_le (State.wf_phase hs ht)
  obtain ⟨p, rfl⟩ | ⟨a, rfl, ha⟩ := advance_next_issued ((tick_busy ht).symm.trans h)
  · have hrank := (advance_toPhase (State.wf_phase hs ht) ((tick_busy ht).symm.trans h)).1
    obtain ⟨n, hn, hticks⟩ := ticks_busy (tickKeepsLegalState s _ hs h) (s.toPhase_txn t p)
    refine ⟨n + 1, ?_, ?_⟩
    · simp only at hn
      omega
    · rw [ticks_succ h, hticks, step_toPhase ht]
  · refine ⟨1, by omega, ?_⟩
    rw [ticks_one, h, step_of_issued hs ht ha]
termination_by 4 + windowCount (remainingLen (fieldLen t.request.header)) - t.phase.rank
decreasing_by omega

/-- The tick out of IDLE puts the latched transaction into a phase, or does what the step does. -/
theorem enter_cases {r : Request} {s : State} (ht : s.txn = some (Transaction.start r)) :
    (∃ p, enter r s = .next (s.toPhase (Transaction.start r) p)) ∨ enter r s = step s := by
  have hf := fetch_busy ht
  unfold enter
  split
  · exact .inl ⟨_, rfl⟩
  · rename_i srcOk len hd
    unfold enterDec
    split <;> rename_i hpro
    · exact .inl ⟨_, rfl⟩
    · right
      rw [step_decoded hf hd]
      simp [exec, execDec, serveB, ht, hpro]
    · exact .inl ⟨.checkLen, by rw [← Transaction.start_phase r, State.toPhase_phase ht]⟩
  · rename_i i _ hd
    exact .inr (step_decoded hf hd).symm

/-- Settles O49: inside a transaction by the rank of its phase; out of IDLE in one tick more. -/
theorem phasesRefineStep : Obligations.PhasesRefineStep := by
  intro s hs
  obtain ⟨ht, hr, hf⟩ | ⟨r, rest, ht, hr, hf⟩ | ⟨t, ht, hf⟩ := fetch_cases s
  · exact ⟨0, (step_unfetched hf).symm, fun r s1 h => by rw [hf] at h; cases h⟩
  · have hcase := enter_cases (s.latch_txn r rest)
    rw [← tick_idle ht hr, step_latch ht hr] at hcase
    obtain ⟨p, h⟩ | h := hcase
    · obtain ⟨n, hn, hticks⟩ := ticks_busy (tickKeepsLegalState s _ hs h) (State.toPhase_txn _ _ p)
      refine ⟨n + 1, ?_, fun r' s1 h' => ?_⟩
      · rw [ticks_succ h, hticks, step_toPhase (s.latch_txn r rest), step_latch ht hr]
      · rw [hf] at h'
        cases h'
        simp only [Transaction.start_request, windowCount_remainingLen] at hn
        omega
    · exact ⟨1, by rw [ticks_one, h], fun _ _ _ => by omega⟩
  · obtain ⟨n, hn, hticks⟩ := ticks_busy hs ht
    refine ⟨n, hticks, fun r s1 h => ?_⟩
    rw [hf] at h
    cases h
    rw [windowCount_remainingLen] at hn
    omega

end Sys2Proof.Machine

/-! # The family 60_exceptions.md: illegal headers, failed sources, where each error kind comes from

Each part is a layer of lemmas about the model's operations, and then the obligations they settle. -/

/-! ## Which headers select an operation (30_encoding.md R71, R72) -/

namespace Sys2Proof

theorem Instr.op_range (i : Instr) : 1 ≤ i.op.toNat ∧ i.op.toNat ≤ 8 := by
  cases i <;> simp [Instr.op]

/-- The test of R72: with no reserved bit set, the codes 0x1 to 0x8 alone select an operation. -/
theorem exists_decode_iff {h : Header} :
    (∃ i, decode h = .ok i) ↔ fieldRsv h = 0 ∧ 1 ≤ (fieldOp h).toNat ∧ (fieldOp h).toNat ≤ 8 := by
  constructor
  · rintro ⟨i, hd⟩
    obtain ⟨hr, hop, -⟩ := decode_ok_fields hd
    exact ⟨hr, hop ▸ i.op_range⟩
  · rintro ⟨hr, hlow, hhigh⟩
    rw [decode_unreserved hr]
    generalize (fieldOp h).toNat = n at hlow hhigh
    interval_cases n <;> exact ⟨_, rfl⟩

theorem decode_illegal {h : Header} (hill : fieldRsv h ≠ 0 ∨ fieldOp h = 0 ∨ 9 ≤ (fieldOp h).toNat) :
    ∃ e, decode h = .error e := by
  cases hd : decode h with
  | error e => exact ⟨e, rfl⟩
  | ok i =>
    obtain ⟨hr, hlow, hhigh⟩ := exists_decode_iff.mp ⟨i, hd⟩
    obtain hne | h0 | h9 := hill
    · exact absurd hr hne
    · simp [h0] at hlow
    · omega

end Sys2Proof

/-! ## Taking an error (60_exceptions.md R174, R176, R178) -/

namespace Sys2Proof.Machine

/-- Settles O13: both are the record that the definitions write. -/
theorem responseAndErrorEntry : Obligations.ResponseAndErrorEntry := ⟨fun _ _ => rfl, fun _ _ => rfl⟩

/-- Settles O10: such a header decodes to nothing, so the step raises IllegalOp on the request just latched. -/
theorem illegalHeaderIsAnswered : Obligations.IllegalHeaderIsAnswered := by
  refine ⟨fun s r rest ht hr hill => ?_, fun h hr hlow hhigh => exists_decode_iff.mpr ⟨hr, hlow, hhigh⟩⟩
  obtain ⟨e, hd⟩ := decode_illegal hill
  rw [step_illegal (fetch_idle ht hr) hd, State.raise, State.latch_respond, Response.error]

/-- The seven constructors of format B: what they make is format B, with the `src_ok` bit and the length given. -/
theorem formatB_of_mem {op : Bool → Nat → Instr}
    (hop : op ∈ [Instr.b2f32, Instr.b2u16, Instr.b2u32, Instr.b2asc, Instr.vtx, Instr.tri, Instr.dec])
    (srcOk : Bool) (len : Nat) :
    isFormatW (op srcOk len) = false ∧ (op srcOk len).srcOk = srcOk ∧ (op srcOk len).operandLen = len := by
  simp only [List.mem_cons, List.not_mem_nil, or_false] at hop
  obtain rfl | rfl | rfl | rfl | rfl | rfl | rfl := hop <;> exact ⟨rfl, rfl, rfl⟩

/-- An idle unit answers a format B request whose source failed with SourceFailure, and its buffer has no part in it. -/
theorem step_noSource {s : State} {r : Request} {rest : List Request} {i : Instr} (hB : isFormatW i = false)
    (hok : i.srcOk = false) (ht : s.txn = none) (hr : s.requests = r :: rest) (hd : decode r.header = .ok i) :
    step s = .next { maxLen := s.maxLen, requests := rest, txn := none,
                     responses := s.responses ++ [Response.error .sourceFailure] } := by
  rw [step_decoded (fetch_idle ht hr) hd, exec_noSource hB hok (s.latch_txn r rest), State.raise, State.latch_respond]

/-- Settles O22: the prologue raises SourceFailure before it looks at the length or the buffer. -/
theorem sourceFailureWhateverTheBuffer : Obligations.SourceFailureWhateverTheBuffer := by
  intro op hop
  refine ⟨fun s t len ht => ?_, fun s h h' data data' rest len len' ht hd hd' => ?_⟩
  · obtain ⟨hB, hok, -⟩ := formatB_of_mem hop false len
    exact exec_noSource hB hok ht
  · obtain ⟨hB, hok, -⟩ := formatB_of_mem hop false len
    obtain ⟨hB', hok', -⟩ := formatB_of_mem hop false len'
    rw [step_noSource (s := { s with requests := ⟨h, data⟩ :: rest }) hB hok ht rfl hd,
      step_noSource (s := { s with requests := ⟨h', data'⟩ :: rest }) hB' hok' ht rfl hd']

/-! ## Where each error kind comes from (60_exceptions.md R170 to R175) -/

/-- An operation that checks its length and then reads issues an error only when the check fails, and only that error. -/
theorem lengthChecked_error {c : Prop} [Decidable c] {k k' : ErrorKind} {α : Type} {o : Option α} {f : α → Result}
    (h : (if c then some (Response.error k) else o.map fun x => Response.ok (f x)) = some (Response.error k')) :
    c ∧ k' = k := by
  split at h
  · cases h
    exact ⟨‹c›, rfl⟩
  · obtain ⟨_, _, he⟩ := Option.map_eq_some_iff.mp h
    cases he

/-- The errors an operation raises past its prologue, with their conditions, as O29 lists them. -/
def IsOwnError (i : Instr) (k : ErrorKind) : Prop :=
  (k = .operandLength ∧ ∃ len, (i = .b2f32 true len ∧ len ≠ 4) ∨ (i = .b2u16 true len ∧ len ≠ 2) ∨
    (i = .b2u32 true len ∧ len ≠ 4) ∨ (i = .vtx true len ∧ len ≠ 12)) ∨
  (k = .recordLength ∧ ∃ len, i = .tri true len ∧ len ≠ 50) ∨
  (k = .truncatedInput ∧ ∃ len, i = .dec true len ∧ len < 84) ∨
  (k = .misalignedTrailingData ∧ ∃ len, i = .dec true len ∧ 84 ≤ len ∧ (len - 84) % 50 ≠ 0)

/-- Past the prologue of format B the only errors are the operation's own. -/
theorem opOf_error {i : Instr} {m : Memory} {k : ErrorKind} (hok : i.srcOk = true) (hs : m.size = i.operandLen)
    (h : opOf i m = some (Response.error k)) : IsOwnError i k := by
  cases i with
  | b2f32 _ len =>
    obtain ⟨hne, rfl⟩ := lengthChecked_error h
    cases hok
    exact .inl ⟨rfl, len, .inl ⟨rfl, hne⟩⟩
  | b2u16 _ len =>
    obtain ⟨hne, rfl⟩ := lengthChecked_error h
    cases hok
    exact .inl ⟨rfl, len, .inr (.inl ⟨rfl, hne⟩)⟩
  | b2u32 _ len =>
    obtain ⟨hne, rfl⟩ := lengthChecked_error h
    cases hok
    exact .inl ⟨rfl, len, .inr (.inr (.inl ⟨rfl, hne⟩))⟩
  | vtx _ len =>
    obtain ⟨hne, rfl⟩ := lengthChecked_error h
    cases hok
    exact .inl ⟨rfl, len, .inr (.inr (.inr ⟨rfl, hne⟩))⟩
  | tri _ len =>
    obtain ⟨hne, rfl⟩ := lengthChecked_error h
    cases hok
    exact .inr (.inl ⟨rfl, len, rfl, hne⟩)
  | dec _ len =>
    cases hok
    obtain ⟨hshort, ha⟩ | ⟨hlong, hr, ha⟩ | ⟨_, _, ha⟩ := opDec_cases hs h <;> cases ha
    · exact .inr (.inr (.inl ⟨rfl, len, rfl, hshort⟩))
    · exact .inr (.inr (.inr ⟨rfl, len, rfl, hlong, hr⟩))
  | b2asc _ _ =>
    obtain ⟨_, _, ha⟩ := Option.map_eq_some_iff.mp h
    cases ha
  | f322b _ _ => cases h

/-- Settles O29: the response issued is SourceFailure from the prologue or the operation's own answer, and F322B's is no
error. -/
theorem errorKindSources : Obligations.ErrorKindSources := by
  intro i s s' k h hresp
  obtain ⟨t, a, _, rfl, ha⟩ := exec_next h
  obtain rfl : a = Response.error k := List.singleton_inj.mp (List.append_cancel_left hresp)
  obtain ⟨hB, hok, hk⟩ | ⟨_, hok, _, hs, hop⟩ | ⟨hW, hop⟩ := ha
  · cases hk
    exact .inl ⟨rfl, hok, fun _ _ hi => by rw [hi] at hB; cases hB⟩
  · exact .inr (opOf_error hok hs hop)
  · obtain ⟨w, _, hopW⟩ := exec_formatW hW s
    rw [hopW] at hop
    cases hop

end Sys2Proof.Machine

/-! # The family 70_reset_and_hazards.md: reset, the host's duties, requests served in order

Each part is a layer of lemmas about the model's operations, and then the obligations they settle. -/

namespace Sys2Proof.Machine

/-! ## Reset and the step of an idle unit (70_reset_and_hazards.md R200, R201, R205) -/

theorem State.respond_inj {s : State} {a b : Response} : s.respond a = s.respond b ↔ a = b :=
  ⟨fun h => List.singleton_inj.mp (List.append_cancel_left (congrArg State.responses h)), fun h => h ▸ rfl⟩

/-- An idle unit issues to its oldest request what a unit just reset would, and nothing else. -/
theorem step_respond_iff_answers {s : State} {r : Request} {rest : List Request} {a : Response} (ht : s.txn = none)
    (hr : s.requests = r :: rest) : step s = .next ((s.latch r rest).respond a) ↔ Answers s.maxLen r a := by
  obtain ⟨b, hb⟩ | ⟨x, hx⟩ := step_depends_on_request s.maxLen r
  · have hfresh : Answers s.maxLen r b := hb _ [] rfl rfl rfl
    rw [hb s rest ht hr rfl, Answers, hfresh, Host.Outcome.next.injEq, Host.Outcome.next.injEq, State.respond_inj,
      State.respond_inj]
  · have hfresh : step ((State.fresh s.maxLen).issue r) = .refused x := hx _ [] rfl rfl rfl
    rw [hx s rest ht hr rfl, Answers, hfresh]
    constructor <;> intro h <;> cases h

/-- Settles O1: a unit just reset has nothing, and every idle unit issues what it would. -/
theorem resetIsIdle : Obligations.ResetIsIdle :=
  ⟨⟨rfl, rfl, rfl⟩, fun _ => ⟨rfl, rfl, rfl⟩, fun _ _ _ _ ht hr => step_respond_iff_answers ht hr⟩

/-- Settles O3: the unit is as just reset, and an idle unit with nothing waiting stays as it is. -/
theorem hostResetAbandonsTransaction : Obligations.HostResetAbandonsTransaction := fun s =>
  ⟨rfl, rfl, rfl, rfl, (idleStepChangesNothing s.hostReset rfl rfl).1⟩

/-- Settles O12: the fetch latches the oldest request of an idle unit, and finds the one in progress otherwise. -/
theorem stepServesDecodedRequest : Obligations.StepServesDecodedRequest :=
  ⟨fun _ _ _ _ ht hr hd => step_decoded (fetch_idle ht hr) hd, fun _ _ _ ht hd => step_decoded (fetch_busy ht) hd⟩

/-! ## The host's duties (70_reset_and_hazards.md R203; 00_scope.md R10) -/

theorem exec_tooLong {i : Instr} {s : State} {t : Transaction} (hB : isFormatW i = false) (hok : i.srcOk = true)
    (ht : s.txn = some t) (hl : s.maxLen.val < i.operandLen) : exec i s = .refused .lenAboveMax := by
  rw [exec_formatB hB, hok, serveB_tooLong ht hl]

theorem exec_mismatch {i : Instr} {s : State} {t : Transaction} (hB : isFormatW i = false) (hok : i.srcOk = true)
    (ht : s.txn = some t) (hl : i.operandLen ≤ s.maxLen.val) (hs : t.request.data.size ≠ i.operandLen) :
    exec i s = .refused .bufferNotLen := by
  rw [exec_formatB hB, hok, serveB_mismatch ht hl hs]

/-- Settles O23: the prologue tests the length against MAXLEN, then the buffer's size, before the operation is asked. -/
theorem hostDutiesBrokenAreRefused : Obligations.HostDutiesBrokenAreRefused := by
  intro op hop s t len ht
  obtain ⟨hB, hok, hlen⟩ := formatB_of_mem hop true len
  exact ⟨fun hl => exec_tooLong hB hok ht (by rwa [hlen]),
    fun hl hs => exec_mismatch hB hok ht (by rwa [hlen]) (by rwa [hlen])⟩

/-! ## Which requests are answered (70_reset_and_hazards.md R203, R204) -/

theorem accepted_illegal {maxLen : Length} {r : Request} {e : DecodeReject} (hd : decode r.header = .error e) :
    r.accepted maxLen = true := by simp [Request.accepted, hd]

theorem accepted_formatW {maxLen : Length} {r : Request} {i : Instr} (hd : decode r.header = .ok i)
    (hW : isFormatW i = true) : r.accepted maxLen = true := by
  cases i with
  | f322b _ _ => simp [Request.accepted, hd]
  | b2f32 _ _ | b2u16 _ _ | b2u32 _ _ | b2asc _ _ | vtx _ _ | tri _ _ | dec _ _ => cases hW

theorem accepted_formatB_iff {maxLen : Length} {r : Request} {i : Instr} (hd : decode r.header = .ok i)
    (hB : isFormatW i = false) : r.accepted maxLen = true ↔
      i.srcOk = false ∨ i.operandLen ≤ maxLen.val ∧ r.data.size = i.operandLen := by
  cases i with
  | f322b _ _ => cases hB
  | b2f32 _ _ | b2u16 _ _ | b2u32 _ _ | b2asc _ _ | vtx _ _ | tri _ _ | dec _ _ => simp [Request.accepted, hd]

theorem answers_illegal {maxLen : Length} {r : Request} {e : DecodeReject} (hd : decode r.header = .error e) :
    Answers maxLen r (Response.error .illegalOp) :=
  step_illegal (s1 := (State.fresh maxLen).latch r []) (fetch_idle rfl rfl) hd

theorem answers_of_exec {maxLen : Length} {r : Request} {i : Instr} {a : Response} (hd : decode r.header = .ok i)
    (h : exec i ((State.fresh maxLen).latch r []) = .next (((State.fresh maxLen).latch r []).respond a)) :
    Answers maxLen r a := (step_decoded (fetch_idle rfl rfl) hd).trans h

theorem accepted_answered {maxLen : Length} {r : Request} (h : r.accepted maxLen = true) : ∃ a, Answers maxLen r a := by
  cases hd : decode r.header with
  | error _ => exact ⟨_, answers_illegal hd⟩
  | ok i =>
    cases hi : isFormatW i with
    | true =>
      obtain ⟨a, ha⟩ := opOf_total (m := r.data) (.inl hi)
      exact ⟨a, answers_of_exec hd (exec_formatW_answers hi rfl ha)⟩
    | false =>
      cases hok : i.srcOk with
      | false => exact ⟨_, answers_of_exec hd (exec_noSource hi hok rfl)⟩
      | true =>
        obtain hno | ⟨hl, hs⟩ := (accepted_formatB_iff hd hi).mp h
        · exact absurd (hok.symm.trans hno) (by decide)
        · obtain ⟨a, ha⟩ := opOf_total (.inr hs)
          exact ⟨a, answers_of_exec hd (exec_answers hi hok rfl hl hs ha)⟩

theorem unaccepted_refused {maxLen : Length} {r : Request} (h : r.accepted maxLen = false) :
    ∃ x, step ((State.fresh maxLen).issue r) = .refused x := by
  have hnot := Bool.eq_false_iff.mp h
  cases hd : decode r.header with
  | error _ => exact absurd (accepted_illegal hd) hnot
  | ok i =>
    cases hi : isFormatW i with
    | true => exact absurd (accepted_formatW hd hi) hnot
    | false =>
      obtain ⟨hok, hduty⟩ := not_or.mp (mt (accepted_formatB_iff hd hi).mpr hnot)
      have hstep := step_decoded (s := (State.fresh maxLen).issue r) (fetch_idle rfl rfl) hd
      by_cases hl : i.operandLen ≤ maxLen.val
      · exact ⟨_, hstep.trans (exec_mismatch hi (Bool.eq_true_of_not_eq_false hok) rfl hl fun hs => hduty ⟨hl, hs⟩)⟩
      · exact ⟨_, hstep.trans (exec_tooLong hi (Bool.eq_true_of_not_eq_false hok) rfl (Nat.lt_of_not_le hl))⟩

theorem answers_unique {maxLen : Length} {r : Request} {a b : Response} (ha : Answers maxLen r a)
    (hb : Answers maxLen r b) : a = b :=
  State.respond_inj.mp (Host.Outcome.next.inj (ha.symm.trans hb))

theorem answers_ne_refused {maxLen : Length} {r : Request} {a : Response} {x : Refusal} (ha : Answers maxLen r a) :
    step ((State.fresh maxLen).issue r) ≠ .refused x := fun hx => nomatch ha.symm.trans hx

/-- Settles O33: an accepted request gets past its prologue and is answered, another is refused there, and no step does
both. -/
theorem acceptedRequestsAreAnswered : Obligations.AcceptedRequestsAreAnswered := by
  refine fun maxLen r => ⟨⟨accepted_answered, fun ⟨a, ha⟩ => ?_⟩, ⟨unaccepted_refused, fun ⟨x, hx⟩ => ?_⟩,
    fun _ _ => answers_unique⟩
  · by_contra hnot
    obtain ⟨x, hx⟩ := unaccepted_refused (Bool.eq_false_iff.mpr hnot)
    exact answers_ne_refused ha hx
  · refine Bool.eq_false_iff.mpr fun hacc => ?_
    obtain ⟨a, ha⟩ := accepted_answered hacc
    exact answers_ne_refused ha hx

/-! ## A run serves the waiting requests in order (70_reset_and_hazards.md R204, R205) -/

theorem run_succ {M : Host.Core} {s s' : M.State} (h : M.step s = .next s') (k : Nat) :
    M.run (k + 1) s = M.run k s' := by
  rw [Host.Core.run, h]

/-- Settles O34: the first step issues the first request's answer and leaves the unit idle with the others waiting. -/
theorem runAnswersInRequestOrder : Obligations.RunAnswersInRequestOrder := by
  intro rs as s hall ht hr
  induction rs generalizing as s with
  | nil =>
    cases hall
    obtain ⟨_, _, _, _⟩ := s
    cases ht
    cases hr
    simp [Host.Core.run]
  | cons r rest ih =>
    obtain ⟨a, as, ha, hrest, rfl⟩ := List.forall₂_cons_left_iff.mp hall
    have hnext := (step_respond_iff_answers ht hr).mpr ha
    have hrun := ih as ((s.latch r rest).respond a) hrest rfl rfl
    rw [State.respond_responses, State.latch_responses, List.append_assoc] at hrun
    exact (run_succ (M := Sys2Proof.core) hnext rest.length).trans hrun

end Sys2Proof.Machine
